-- ==== Sys2Proof/Config.lean ====
section
/-! DEFINITION. Config: the parameters of the model (spec/00_scope.md R5). The fixed ones are numerals in the types
and definitions: XLEN = 32 (`Word`), PAIRLEN = 64 (`Pair`), NREGS = 32 (`RegNum`; UNVERIFIED, log 11), X0_ZERO
(`State.readReg`, `State.writeReg`), PAIR_LOW = the even register (`State.readPair`; UNVERIFIED, log 12), ILEN = 4
(`State.advancePc`, `State.fetch`; UNVERIFIED, log 13), ODD_PAIR_POLICY and X0_PAIR_POLICY = refuse
(`Operand.illFormed?`; log 9). The launch parameters OV_RESET, REG_RESET and RESET_PC are arguments of
`Machine.launch`, and `Machine.State.reset` names one value for each (logs 3, 4, 5). The open parameter ENC stands
here. -/

namespace Sys2Proof.Config

/-- ENC (R5, R36) is open: the source gives no bit pattern. DESIGN CHOICE (log 2): the model numbers the terms
itself (`Instr.number`) and passes the number through this permutation of the 32-bit words, of which nothing is
known. Composed with a fixed injective numbering, the permutations give exactly the encodings that R36 admits, so
nothing but R36's three assumptions is assumed. -/
opaque encPerm : Equiv.Perm (BitVec 32)

end Sys2Proof.Config
end

