-- ==== Sys2Proof/Word.lean ====
section
/-! DEFINITION. Word: the bit-vector types of the spec (spec/00_scope.md R5 to R7) and the result of a saturating
operation. -/

namespace Sys2Proof

/-- An element of 8 bits (R7, `B(v,k)`). -/
abbrev Byte := BitVec 8

/-- An element of 16 bits (R7, `H(v,k)`). -/
abbrev Half := BitVec 16

/-- The value of one general register (R5, XLEN). -/
abbrev Word := BitVec 32

/-- The value of a register pair (R5, PAIRLEN). -/
abbrev Pair := BitVec 64

/-- A general register number, 0 to 31 (R10, R32). -/
abbrev RegNum := Fin 32

/-- What a saturating operation answers (R8, `sat_N`): the vector, and the saturation bit that says whether
clamping changed the value. -/
structure Sat (w : Nat) where
  value : BitVec w
  sat   : Bool
  deriving DecidableEq, Repr

end Sys2Proof
end

