-- ==== Sys2Proof/Machine/Flags.lean ====
section
/-! DEFINITION. Flags: signed saturation and the saturation bit that sets OV (spec/00_scope.md R8, spec/10_state.md
R15). OV is the only flag of the machine. -/

namespace Sys2Proof.Machine

/-- Whether an exact result lies outside the signed range of `n` bits, -2^(n-1) to 2^(n-1) - 1: the saturation bit of
`sat_N` (R8). -/
def outOfRange (n : Nat) (x : Int) : Bool :=
  decide (x > 2 ^ (n - 1) - 1) || decide (x < -2 ^ (n - 1))

/-- `sat_N(x)` (R8): the exact integer clamped to the signed range of `n` bits, and whether clamping changed it. -/
def saturate (n : Nat) (x : Int) : Sat n where
  value := BitVec.ofInt n (min (max x (-2 ^ (n - 1))) (2 ^ (n - 1) - 1))
  sat := outOfRange n x

end Sys2Proof.Machine
end

