-- ==== Sys2Proof/Machine/Operands.lean ====
section
/-! DEFINITION. Operands: the element views of a value (spec/00_scope.md R7), the control field of the shifts, and the
lane-by-lane application of an element function (the loop every SIMD rule writes). -/

namespace Sys2Proof.Machine

/-- `B(v,k)` (R7): bits 8k+7 : 8k. Element 0 is least significant (D18; log 14). -/
def byteOf {w : Nat} (v : BitVec w) (k : Nat) : Byte := v.extractLsb' (8 * k) 8

/-- `H(v,k)` (R7): bits 16k+15 : 16k. -/
def halfOf {w : Nat} (v : BitVec w) (k : Nat) : Half := v.extractLsb' (16 * k) 16

/-- `W(v,k)` (R7): bits 32k+31 : 32k. -/
def wordOf {w : Nat} (v : BitVec w) (k : Nat) : Word := v.extractLsb' (32 * k) 32

/-- The low `l` bits of Rs2, the signed control field of a shift (R51, R52); the bits above do not matter. -/
def controlField (l : Nat) (v : Word) : BitVec l := v.extractLsb' 0 l

/-- The eight byte results of a SIMD instruction put together, `r_7 ++ ... ++ r_0`, with the OR of their saturation
bits (R41, R46, R51, R56, R58). -/
def packBytes (r : Nat → Sat 8) : Sat 64 where
  value := (r 7).value ++ (r 6).value ++ (r 5).value ++ (r 4).value ++
    (r 3).value ++ (r 2).value ++ (r 1).value ++ (r 0).value
  sat := (r 0).sat || (r 1).sat || (r 2).sat || (r 3).sat || (r 4).sat || (r 5).sat || (r 6).sat || (r 7).sat

/-- The four halfword results of a SIMD instruction put together, `r_3 ++ ... ++ r_0`, with the OR of their
saturation bits (R42, R47, R52, R57, R59). -/
def packHalves (r : Nat → Sat 16) : Sat 64 where
  value := (r 3).value ++ (r 2).value ++ (r 1).value ++ (r 0).value
  sat := (r 0).sat || (r 1).sat || (r 2).sat || (r 3).sat

/-- A one-source byte instruction: the element function on every byte of the pair. -/
def mapBytes (f : Byte → Sat 8) (a : Pair) : Sat 64 :=
  packBytes fun k => f (byteOf a k)

/-- A one-source halfword instruction. -/
def mapHalves (f : Half → Sat 16) (a : Pair) : Sat 64 :=
  packHalves fun k => f (halfOf a k)

/-- A two-source byte instruction: byte k of the first with byte k of the second. -/
def zipBytes (f : Byte → Byte → Sat 8) (a b : Pair) : Sat 64 :=
  packBytes fun k => f (byteOf a k) (byteOf b k)

/-- A two-source halfword instruction. -/
def zipHalves (f : Half → Half → Sat 16) (a b : Pair) : Sat 64 :=
  packHalves fun k => f (halfOf a k) (halfOf b k)

end Sys2Proof.Machine
end

