-- ==== Sys2Proof/Syntax.lean ====
section
/-! DEFINITION. Syntax: the 14 instruction terms (spec/00_scope.md R1, spec/30_encoding.md R30 to R34), their
operand formats, the assembler's spelling, and the items a program is made of (spec/20_memory.md R22). -/

namespace Sys2Proof

/-- An instruction term (R30): one of the 14 mnemonics with its register numbers, in assembler order
(R31, R34: Rd, Rs1, Rs2). A pair operand names its pair by the even register (R12); ill-formed terms can be
written and are refused when reached (R32, R80). -/
inductive Instr where
  /-- DKHM8 Rd, Rs1, Rs2 (R41) -/
  | dkhm8 (rd rs1 rs2 : RegNum)
  /-- DKHM16 Rd, Rs1, Rs2 (R42) -/
  | dkhm16 (rd rs1 rs2 : RegNum)
  /-- DKABS8 Rd, Rs1 (R46) -/
  | dkabs8 (rd rs1 : RegNum)
  /-- DKABS16 Rd, Rs1 (R47) -/
  | dkabs16 (rd rs1 : RegNum)
  /-- DKSLRA8 Rd, Rs1, Rs2 (R51) -/
  | dkslra8 (rd rs1 rs2 : RegNum)
  /-- DKSLRA16 Rd, Rs1, Rs2 (R52) -/
  | dkslra16 (rd rs1 rs2 : RegNum)
  /-- DKADD8 Rd, Rs1, Rs2 (R56) -/
  | dkadd8 (rd rs1 rs2 : RegNum)
  /-- DKADD16 Rd, Rs1, Rs2 (R57) -/
  | dkadd16 (rd rs1 rs2 : RegNum)
  /-- DKSUB8 Rd, Rs1, Rs2 (R58) -/
  | dksub8 (rd rs1 rs2 : RegNum)
  /-- DKSUB16 Rd, Rs1, Rs2 (R59) -/
  | dksub16 (rd rs1 rs2 : RegNum)
  /-- EXPD80 Rd, Rs1 (R63) -/
  | expd80 (rd rs1 : RegNum)
  /-- EXPD81 Rd, Rs1 (R64) -/
  | expd81 (rd rs1 : RegNum)
  /-- EXPD82 Rd, Rs1 (R65) -/
  | expd82 (rd rs1 : RegNum)
  /-- EXPD83 Rd, Rs1 (R66) -/
  | expd83 (rd rs1 : RegNum)
  deriving DecidableEq, Repr

/-- The source's "Type:" of an instruction (R2). -/
inductive InstrType where
  | simd
  | dsp
  deriving DecidableEq, Repr

/-- The four operand formats (R31). -/
inductive Format where
  | ppp
  | pps
  | pp
  | ss
  deriving DecidableEq, Repr

/-- The operand slots (R9). -/
inductive Slot where
  | rd
  | rs1
  | rs2
  deriving DecidableEq, Repr

/-- What a register number denotes in a slot (R11): a pair (R12) or one register. -/
inductive OperandKind where
  | pair
  | single
  deriving DecidableEq, Repr

/-- One operand of a term: its slot, its kind and its register number. -/
structure Operand where
  slot : Slot
  kind : OperandKind
  reg  : RegNum
  deriving DecidableEq, Repr

/-- The mnemonic, in the source's upper case (R1, R34). -/
def Instr.mnemonic : Instr → String
  | .dkhm8 _ _ _ => "DKHM8"
  | .dkhm16 _ _ _ => "DKHM16"
  | .dkabs8 _ _ => "DKABS8"
  | .dkabs16 _ _ => "DKABS16"
  | .dkslra8 _ _ _ => "DKSLRA8"
  | .dkslra16 _ _ _ => "DKSLRA16"
  | .dkadd8 _ _ _ => "DKADD8"
  | .dkadd16 _ _ _ => "DKADD16"
  | .dksub8 _ _ _ => "DKSUB8"
  | .dksub16 _ _ _ => "DKSUB16"
  | .expd80 _ _ => "EXPD80"
  | .expd81 _ _ => "EXPD81"
  | .expd82 _ _ => "EXPD82"
  | .expd83 _ _ => "EXPD83"

/-- The operand format of an instruction (R31). -/
def Instr.format : Instr → Format
  | .dkhm8 _ _ _ | .dkhm16 _ _ _ => .ppp
  | .dkadd8 _ _ _ | .dkadd16 _ _ _ | .dksub8 _ _ _ | .dksub16 _ _ _ => .ppp
  | .dkslra8 _ _ _ | .dkslra16 _ _ _ => .pps
  | .dkabs8 _ _ | .dkabs16 _ _ => .pp
  | .expd80 _ _ | .expd81 _ _ | .expd82 _ _ | .expd83 _ _ => .ss

/-- The register numbers of a term, in assembler order (R31). -/
def Instr.regs : Instr → List RegNum
  | .dkhm8 rd rs1 rs2 | .dkhm16 rd rs1 rs2 => [rd, rs1, rs2]
  | .dkadd8 rd rs1 rs2 | .dkadd16 rd rs1 rs2 | .dksub8 rd rs1 rs2 | .dksub16 rd rs1 rs2 => [rd, rs1, rs2]
  | .dkslra8 rd rs1 rs2 | .dkslra16 rd rs1 rs2 => [rd, rs1, rs2]
  | .dkabs8 rd rs1 | .dkabs16 rd rs1 => [rd, rs1]
  | .expd80 rd rs1 | .expd81 rd rs1 | .expd82 rd rs1 | .expd83 rd rs1 => [rd, rs1]

/-- The slots of a format with their kinds, in assembler order (R11, R31). -/
def Format.slots : Format → List (Slot × OperandKind)
  | .ppp => [(.rd, .pair), (.rs1, .pair), (.rs2, .pair)]
  | .pps => [(.rd, .pair), (.rs1, .pair), (.rs2, .single)]
  | .pp => [(.rd, .pair), (.rs1, .pair)]
  | .ss => [(.rd, .single), (.rs1, .single)]

/-- The operands of a term, in assembler order (R11, R31). -/
def Instr.operands (i : Instr) : List Operand :=
  List.zipWith (fun k r => ⟨k.1, k.2, r⟩) i.format.slots i.regs

/-- The source's type of an instruction (R2): the ten DK instructions are SIMD, the four EXPD8n are DSP. -/
def Instr.type (i : Instr) : InstrType :=
  match i.format with
  | .ss => .dsp
  | .ppp | .pps | .pp => .simd

/-- The ABI aliases of the registers x0 to x31, in order (R10: an assembler front end may accept them). -/
def abiNames : List String :=
  ["zero", "ra", "sp", "gp", "tp", "t0", "t1", "t2", "s0", "s1", "a0", "a1", "a2", "a3", "a4", "a5"] ++
  ["a6", "a7", "s2", "s3", "s4", "s5", "s6", "s7", "s8", "s9", "s10", "s11", "t3", "t4", "t5", "t6"]

/-- The name of a register in the spec's examples (R34). -/
def regName (r : RegNum) : String := "x" ++ toString r.val

/-- The register a name stands for: `x<n>`, or its ABI alias (R10). -/
def regOfName (name : String) : Option RegNum :=
  (List.finRange 32).find? fun r => regName r == name || abiNames[r.val]? == some name

/-- The assembler line of a term (R34): the mnemonic, then the operands separated by commas, destination first. -/
def Instr.asm (i : Instr) : String :=
  i.mnemonic ++ " " ++ String.intercalate ", " (i.regs.map regName)

/-- One item of a program (R22). At assembly level it is a mnemonic with register numbers, which need not be one of
the 14 (R37, R71); at binary level it is a 32-bit word, which DEC reads (R36). -/
inductive Item where
  | asm (mnemonic : String) (regs : List RegNum)
  | word (w : Word)
  deriving DecidableEq, Repr

/-- The assembly-level item of a term. -/
def Item.ofInstr (i : Instr) : Item := .asm i.mnemonic i.regs

end Sys2Proof
end

