-- ==== Sys2Proof/WellFormed.lean ====
section
/-! DEFINITION. WellFormed: the operand check of spec/30_encoding.md R32 with the reasons of
spec/60_exceptions.md R71. -/

namespace Sys2Proof

/-- Why the operands of a term are ill-formed (R71). -/
inductive IllFormed where
  /-- A pair slot holds an odd register number (R12, D4; log 9). -/
  | oddPairRegister (slot : Slot)
  /-- A pair slot holds register number 0 (R12, D5; log 9). -/
  | pairX0 (slot : Slot)
  deriving DecidableEq, Repr

/-- The check of one operand (R32). Within a slot `pairX0` is tested before `oddPairRegister` (R71, D19; log 10). -/
def Operand.illFormed? (o : Operand) : Option IllFormed :=
  match o.kind with
  | .single => none
  | .pair =>
    if o.reg.val = 0 then some (.pairX0 o.slot)
    else if o.reg.val % 2 = 1 then some (.oddPairRegister o.slot)
    else none

/-- The first ill-formed operand in the order Rd, Rs1, Rs2 gives the reason (R71, D19; log 10). -/
def Instr.illFormed? (i : Instr) : Option IllFormed :=
  i.operands.findSome? Operand.illFormed?

/-- A well-formed instruction (R32). -/
abbrev Instr.WellFormed (i : Instr) : Prop := i.illFormed? = none

/-- Why the decoder refuses a sequence of bytes. -/
inductive DecodeReject where
  /-- DEC answers `invalid`: the word is no instruction of the 14 (R36, R37). -/
  | notInScope (w : Word)
  /-- Fewer than the four bytes of an instruction stand there (R30). -/
  | truncated
  deriving DecidableEq, Repr

end Sys2Proof
end

