-- ==== Sys2Proof/Decode.lean ====
section
/-! DEFINITION. Decode: DEC and ENC (spec/30_encoding.md R36). The spec fixes no bit pattern and forbids assuming
one, so both go through the opaque permutation `Config.encPerm` (log 2). `encodeWith` and `decodeWith` take the
permutation as an argument; `encode` and `decode` are theirs at the open one. -/

namespace Sys2Proof

/-- The model's own number of a term. It is no bit pattern of the hardware: `Config.encPerm` stands between it and
the words (log 2). -/
def packNumber (k : Nat) (rd rs1 rs2 : RegNum) : Nat :=
  ((k * 32 + rd.val) * 32 + rs1.val) * 32 + rs2.val

/-- The number of a term. -/
def Instr.number : Instr → Nat
  | .dkhm8 rd rs1 rs2 => packNumber 0 rd rs1 rs2
  | .dkhm16 rd rs1 rs2 => packNumber 1 rd rs1 rs2
  | .dkabs8 rd rs1 => packNumber 2 rd rs1 0
  | .dkabs16 rd rs1 => packNumber 3 rd rs1 0
  | .dkslra8 rd rs1 rs2 => packNumber 4 rd rs1 rs2
  | .dkslra16 rd rs1 rs2 => packNumber 5 rd rs1 rs2
  | .dkadd8 rd rs1 rs2 => packNumber 6 rd rs1 rs2
  | .dkadd16 rd rs1 rs2 => packNumber 7 rd rs1 rs2
  | .dksub8 rd rs1 rs2 => packNumber 8 rd rs1 rs2
  | .dksub16 rd rs1 rs2 => packNumber 9 rd rs1 rs2
  | .expd80 rd rs1 => packNumber 10 rd rs1 0
  | .expd81 rd rs1 => packNumber 11 rd rs1 0
  | .expd82 rd rs1 => packNumber 12 rd rs1 0
  | .expd83 rd rs1 => packNumber 13 rd rs1 0

/-- The register number in the five bits of `n` from `place` on. -/
def regField (n place : Nat) : RegNum :=
  ⟨n / place % 32, Nat.mod_lt _ (by decide)⟩

/-- A term of two operands leaves the third field 0. -/
def twoOperands (rs2 : RegNum) (i : Instr) : Option Instr :=
  if rs2 = 0 then some i else none

/-- The term with number `n`, if there is one. -/
def Instr.ofNumber (n : Nat) : Option Instr :=
  let rd := regField n 1024
  let rs1 := regField n 32
  let rs2 := regField n 1
  match n / 32768 with
  | 0 => some (.dkhm8 rd rs1 rs2)
  | 1 => some (.dkhm16 rd rs1 rs2)
  | 2 => twoOperands rs2 (.dkabs8 rd rs1)
  | 3 => twoOperands rs2 (.dkabs16 rd rs1)
  | 4 => some (.dkslra8 rd rs1 rs2)
  | 5 => some (.dkslra16 rd rs1 rs2)
  | 6 => some (.dkadd8 rd rs1 rs2)
  | 7 => some (.dkadd16 rd rs1 rs2)
  | 8 => some (.dksub8 rd rs1 rs2)
  | 9 => some (.dksub16 rd rs1 rs2)
  | 10 => twoOperands rs2 (.expd80 rd rs1)
  | 11 => twoOperands rs2 (.expd81 rd rs1)
  | 12 => twoOperands rs2 (.expd82 rd rs1)
  | 13 => twoOperands rs2 (.expd83 rd rs1)
  | _ => none

/-- DEC for a given permutation: total, and `none` (the spec's `invalid`) for every word that is not the image of a
well-formed instruction (R36 (b)). -/
def decodeWith (p : Equiv.Perm Word) (w : Word) : Option Instr :=
  match Instr.ofNumber (p.symm w).toNat with
  | some i => if i.WellFormed then some i else none
  | none => none

/-- DEC (R36). -/
def decode (w : Word) : Option Instr := decodeWith Config.encPerm w

/-- A 32-bit word from its bytes, the byte at the lowest address first. Little-endian (R23, D9; log 18). -/
def wordOfBytes (b0 b1 b2 b3 : Byte) : Word := b3 ++ b2 ++ b1 ++ b0

/-- The bytes of a 32-bit word, the byte at the lowest address first (R23, D9; log 18). -/
def bytesOfWord (w : Word) : List Byte :=
  [w.extractLsb' 0 8, w.extractLsb' 8 8, w.extractLsb' 16 8, w.extractLsb' 24 8]

/-- The decoder on bytes: an instruction is four bytes (R30); it answers the instruction and the rest, or rejects by
name. -/
def decodeBytes : List Byte → Except DecodeReject (Instr × List Byte)
  | b0 :: b1 :: b2 :: b3 :: rest =>
    match decode (wordOfBytes b0 b1 b2 b3) with
    | some i => .ok (i, rest)
    | none => .error (.notInScope (wordOfBytes b0 b1 b2 b3))
  | _ => .error .truncated

/-- The word the opcode table's numbering of bits stands for: the low `nbits` bits of `w`, every bit above them 0. -/
def tableWord (nbits w : Nat) : Word := BitVec.ofNat 32 (w % 2 ^ nbits)

/-- The instruction the decoder reads from the bytes of a table word. `none` where it refuses them, and where the
row is longer than the model's one instruction length (R30, R38). -/
def decodeTableWord (nbits w : Nat) : Option Instr :=
  if nbits ≤ 32 then
    match decodeBytes (bytesOfWord (tableWord nbits w)) with
    | .ok (i, _) => some i
    | .error _ => none
  else none

/-- The term a mnemonic and its register numbers stand for (R30, R31); `none` for any other mnemonic and for an
operand tuple of another shape. -/
def Instr.ofTerm (mnemonic : String) (regs : List RegNum) : Option Instr :=
  match mnemonic, regs with
  | "DKHM8", [rd, rs1, rs2] => some (.dkhm8 rd rs1 rs2)
  | "DKHM16", [rd, rs1, rs2] => some (.dkhm16 rd rs1 rs2)
  | "DKABS8", [rd, rs1] => some (.dkabs8 rd rs1)
  | "DKABS16", [rd, rs1] => some (.dkabs16 rd rs1)
  | "DKSLRA8", [rd, rs1, rs2] => some (.dkslra8 rd rs1 rs2)
  | "DKSLRA16", [rd, rs1, rs2] => some (.dkslra16 rd rs1 rs2)
  | "DKADD8", [rd, rs1, rs2] => some (.dkadd8 rd rs1 rs2)
  | "DKADD16", [rd, rs1, rs2] => some (.dkadd16 rd rs1 rs2)
  | "DKSUB8", [rd, rs1, rs2] => some (.dksub8 rd rs1 rs2)
  | "DKSUB16", [rd, rs1, rs2] => some (.dksub16 rd rs1 rs2)
  | "EXPD80", [rd, rs1] => some (.expd80 rd rs1)
  | "EXPD81", [rd, rs1] => some (.expd81 rd rs1)
  | "EXPD82", [rd, rs1] => some (.expd82 rd rs1)
  | "EXPD83", [rd, rs1] => some (.expd83 rd rs1)
  | _, _ => none

/-- The term an item of a program stands for: an assembly-level item is read by R30 and R31, a binary-level word by
DEC (R22, R36). `none` is the spec's "not one of the 14" (R37, R71). -/
def Item.instr? : Item → Option Instr
  | .asm mnemonic regs => Instr.ofTerm mnemonic regs
  | .word w => decode w

/-- ENC for a given permutation. It is defined on well-formed terms only (R36) and depends on nothing but the
mnemonic and the register numbers (R36 (c)). -/
def encodeWith (p : Equiv.Perm Word) (i : Instr) : Option Word :=
  if i.WellFormed then some (p (BitVec.ofNat 32 i.number)) else none

/-- ENC (R36). -/
def encode (i : Instr) : Option Word := encodeWith Config.encPerm i

end Sys2Proof
end

