-- ==== Sys2Proof/Machine/State.lean ====
section
/-! DEFINITION. State: the machine's state (spec/10_state.md), the reasons a step can stop (spec/60_exceptions.md
R71, spec/70_reset_and_hazards.md R82) and the state after reset. -/

namespace Sys2Proof.Machine

/-- The complete state of spec/10_state.md: x1..x31, pc and OV. `base` and `prog` are the parameters of the spec's
step function (R22, R82), which Lean's one-argument step must find in the state; no step changes them (log 1). -/
structure State where
  /-- x1 to x31, xN at index N - 1. x0 has no storage (R10). -/
  regs : Vector Word 31
  /-- The program counter (R14). -/
  pc : Word
  /-- The overflow flag OV (R15). -/
  ov : Bool
  /-- The address of the program's first item (R22). -/
  base : Word
  /-- The program, one item every four bytes from `base` on (R22). -/
  prog : List Item
  deriving DecidableEq, Repr

/-- The outcomes of a step that are neither a next state nor a refusal. No instruction raises one: the spec's table
of exception causes is empty (R70). -/
inductive Fault where
  /-- The spec's `Ended` (R82, R83): pc is the address just past the last item, and `final` is the end state. Raised
  by `step` alone, before any instruction is fetched. Safe: it is the end the spec defines, not a fault of the chip
  (log 6). -/
  | ended (final : State)
  deriving DecidableEq, Repr

/-- The spec's closed list of refusals (R71), each with the pc, the host's own `notModelled`, and one name of the
model's for a launch the spec does not admit. A refusal says that the model gives no meaning, not what the chip
does; the instruction has no effect (R73). -/
inductive Refusal where
  /-- The host's name for an instruction with no meaning yet. Raised by no arm of this model. Safe. -/
  | notModelled (mnemonic : String)
  /-- A pair slot holds an odd register number (R71, D4). Raised by the meanings of the ten SIMD instructions.
  Safe: it errs toward unprovable (log 9). -/
  | oddPairRegister (slot : Slot) (pc : Word)
  /-- A pair slot holds register number 0 (R71, D5). Raised by the meanings of the ten SIMD instructions. Safe: it
  errs toward unprovable (log 9). -/
  | pairX0 (slot : Slot) (pc : Word)
  /-- The fetched item is none of the 14 instructions, or DEC answers invalid (R71, D8). Raised by `step` and by
  `launch`. Safe: it errs toward unprovable (logs 8, 21). -/
  | notInScope (pc : Word)
  /-- pc is neither the address of an item nor the end address (R22, R71). Raised by `step`. Safe. -/
  | fetchOutsideProgram (pc : Word)
  /-- RESET_PC is not a multiple of 4 (R24, R71). Raised by `launch`. Safe. -/
  | misalignedPc (pc : Word)
  /-- The program does not end below 2^32, so the launch is no run of the model (R80, 93 U5). Raised by `launch`.
  DESIGN CHOICE: the name is the model's own (log 8). Safe. -/
  | programTooLong (pc : Word)
  deriving DecidableEq, Repr

/-- The machine after reset. The spec gives no reset value for anything (R18): each value here is a DESIGN CHOICE,
x1..x31 (log 3), pc, base and the empty program (log 4), OV (log 5). -/
def State.reset : State where
  regs := Vector.replicate 31 0
  pc := 0
  ov := false
  base := 0
  prog := []

end Sys2Proof.Machine
end

