-- ==== Sys2Proof/Machine/Ops.lean ====
section
/-! DEFINITION. Ops: the named operations over the registers, OV and pc (spec/00_scope.md R8, spec/10_state.md R10 to
R16), and the shared form of an instruction's execution (spec/70_reset_and_hazards.md R82). No operation over memory
and none that takes an exception stands here: the machine has neither (R20, R70, R74). -/

namespace Sys2Proof.Machine

/-- `x[i]` (R8): x0 reads as 0 (R10). -/
def State.readReg (s : State) (r : RegNum) : Word :=
  if h : r.val = 0 then 0 else s.regs[r.val - 1]'(by omega)

/-- `x[i] <- v` (R8): a write to x0 has no effect (R10). -/
def State.writeReg (s : State) (r : RegNum) (v : Word) : State :=
  if h : r.val = 0 then s else { s with regs := s.regs.set (r.val - 1) v (by omega) }

/-- The odd register of the pair named by the even register `i` (R12; UNVERIFIED, log 12). The number wraps at 31,
which no well-formed pair reaches. -/
def pairHigh (i : RegNum) : RegNum := i + 1

/-- `P[i]` (R8, R12): x[i+1] in bits 63:32, x[i] in bits 31:0 (UNVERIFIED, log 12). -/
def State.readPair (s : State) (i : RegNum) : Pair :=
  s.readReg (pairHigh i) ++ s.readReg i

/-- `P[i] <- v` (R8, R12): both registers of the pair at once. -/
def State.writePair (s : State) (i : RegNum) (v : Pair) : State :=
  (s.writeReg i (v.extractLsb' 0 32)).writeReg (pairHigh i) (v.extractLsb' 32 32)

/-- `if f: OV <- 1` (R15): OV is set or left as it is, never cleared (log 19). -/
def State.raiseOv (s : State) (f : Bool) : State :=
  { s with ov := s.ov || f }

/-- `pc <- bits_32(unsigned_32(pc) + ILEN)` (R14), wrapping modulo 2^32 (log 13). -/
def State.advancePc (s : State) : State :=
  { s with pc := s.pc + BitVec.ofNat 32 4 }

/-- What every SIMD instruction writes, after all its reads (R16, R82): the Rd pair, then OV if an element
saturated, then pc. -/
def State.finishPair (s : State) (rd : RegNum) (r : Sat 64) : State :=
  ((s.writePair rd r.value).raiseOv r.sat).advancePc

/-- What every EXPD8n writes (R62 to R66): the single register Rd, then pc. -/
def State.finishReg (s : State) (rd : RegNum) (v : Word) : State :=
  (s.writeReg rd v).advancePc

/-- The refusal of an ill-formed instruction: its reason and the pc (R71). -/
def refusalOf (r : IllFormed) (pc : Word) : Refusal :=
  match r with
  | .oddPairRegister slot => .oddPairRegister slot pc
  | .pairX0 slot => .pairX0 slot pc

/-- The operand check before an instruction is executed (R32, R82): an ill-formed term is refused and has no other
effect (R73); a well-formed one takes the state `t` its rule gives. -/
def whenWellFormed (i : Instr) (s t : State) : Host.Outcome State Fault Refusal :=
  match i.illFormed? with
  | some r => .refused (refusalOf r s.pc)
  | none => .next t

end Sys2Proof.Machine
end

