-- ==== Sys2Proof/Machine/Abs.lean ====
section
/-! DEFINITION. Abs: DKABS8 and DKABS16 (spec/41_simd_abs.md). -/

namespace Sys2Proof.Machine

/-- `kabs_N(a)` (R45, with the three-way reading of 90_conflicts.md C3). -/
def kabs (n : Nat) (a : BitVec n) : Sat n :=
  if a = BitVec.ofInt n (-2 ^ (n - 1)) then ⟨BitVec.ofInt n (2 ^ (n - 1) - 1), true⟩
  else if a.msb then ⟨BitVec.ofInt n (-a.toInt), false⟩
  else ⟨a, false⟩

/-- The value of DKABS8 on a pair (R46). -/
def dkabs8 (a : Pair) : Sat 64 := mapBytes (kabs 8) a

/-- The value of DKABS16 on a pair (R47). -/
def dkabs16 (a : Pair) : Sat 64 := mapHalves (kabs 16) a

/-- DKABS8 Rd, Rs1 (R46). -/
def execDkabs8 (rd rs1 : RegNum) (s : State) : Host.Outcome State Fault Refusal :=
  whenWellFormed (.dkabs8 rd rs1) s (s.finishPair rd (dkabs8 (s.readPair rs1)))

/-- DKABS16 Rd, Rs1 (R47). -/
def execDkabs16 (rd rs1 : RegNum) (s : State) : Host.Outcome State Fault Refusal :=
  whenWellFormed (.dkabs16 rd rs1) s (s.finishPair rd (dkabs16 (s.readPair rs1)))

end Sys2Proof.Machine
end

