-- ==== Sys2Proof/Machine/AddSub.lean ====
section
/-! DEFINITION. AddSub: DKADD8, DKADD16, DKSUB8 and DKSUB16 (spec/43_simd_addsub.md). -/

namespace Sys2Proof.Machine

/-- `kadd_N(a, b)` (R55): the exact signed sum, saturated. -/
def kadd (n : Nat) (a b : BitVec n) : Sat n := saturate n (a.toInt + b.toInt)

/-- `ksub_N(a, b)` (R55): the exact signed difference, the Rs1 element minus the Rs2 element, saturated. -/
def ksub (n : Nat) (a b : BitVec n) : Sat n := saturate n (a.toInt - b.toInt)

/-- The value of DKADD8 on two pairs (R56). -/
def dkadd8 (a b : Pair) : Sat 64 := zipBytes (kadd 8) a b

/-- The value of DKADD16 on two pairs (R57). -/
def dkadd16 (a b : Pair) : Sat 64 := zipHalves (kadd 16) a b

/-- The value of DKSUB8 on two pairs (R58). -/
def dksub8 (a b : Pair) : Sat 64 := zipBytes (ksub 8) a b

/-- The value of DKSUB16 on two pairs (R59). -/
def dksub16 (a b : Pair) : Sat 64 := zipHalves (ksub 16) a b

/-- DKADD8 Rd, Rs1, Rs2 (R56). -/
def execDkadd8 (rd rs1 rs2 : RegNum) (s : State) : Host.Outcome State Fault Refusal :=
  whenWellFormed (.dkadd8 rd rs1 rs2) s (s.finishPair rd (dkadd8 (s.readPair rs1) (s.readPair rs2)))

/-- DKADD16 Rd, Rs1, Rs2 (R57). -/
def execDkadd16 (rd rs1 rs2 : RegNum) (s : State) : Host.Outcome State Fault Refusal :=
  whenWellFormed (.dkadd16 rd rs1 rs2) s (s.finishPair rd (dkadd16 (s.readPair rs1) (s.readPair rs2)))

/-- DKSUB8 Rd, Rs1, Rs2 (R58). -/
def execDksub8 (rd rs1 rs2 : RegNum) (s : State) : Host.Outcome State Fault Refusal :=
  whenWellFormed (.dksub8 rd rs1 rs2) s (s.finishPair rd (dksub8 (s.readPair rs1) (s.readPair rs2)))

/-- DKSUB16 Rd, Rs1, Rs2 (R59). -/
def execDksub16 (rd rs1 rs2 : RegNum) (s : State) : Host.Outcome State Fault Refusal :=
  whenWellFormed (.dksub16 rd rs1 rs2) s (s.finishPair rd (dksub16 (s.readPair rs1) (s.readPair rs2)))

end Sys2Proof.Machine
end

