-- ==== Sys2Proof/Machine/Expand.lean ====
section
/-! DEFINITION. Expand: EXPD80, EXPD81, EXPD82 and EXPD83 (spec/44_expand.md). They touch no flag. -/

namespace Sys2Proof.Machine

/-- `expd_n(v)` (R62): four copies of byte n of v. -/
def expd (n : Nat) (v : Word) : Word := byteOf v n ++ byteOf v n ++ byteOf v n ++ byteOf v n

/-- EXPD80 Rd, Rs1 (R63). -/
def execExpd80 (rd rs1 : RegNum) (s : State) : Host.Outcome State Fault Refusal :=
  whenWellFormed (.expd80 rd rs1) s (s.finishReg rd (expd 0 (s.readReg rs1)))

/-- EXPD81 Rd, Rs1 (R64). -/
def execExpd81 (rd rs1 : RegNum) (s : State) : Host.Outcome State Fault Refusal :=
  whenWellFormed (.expd81 rd rs1) s (s.finishReg rd (expd 1 (s.readReg rs1)))

/-- EXPD82 Rd, Rs1 (R65). -/
def execExpd82 (rd rs1 : RegNum) (s : State) : Host.Outcome State Fault Refusal :=
  whenWellFormed (.expd82 rd rs1) s (s.finishReg rd (expd 2 (s.readReg rs1)))

/-- EXPD83 Rd, Rs1 (R66). -/
def execExpd83 (rd rs1 : RegNum) (s : State) : Host.Outcome State Fault Refusal :=
  whenWellFormed (.expd83 rd rs1) s (s.finishReg rd (expd 3 (s.readReg rs1)))

end Sys2Proof.Machine
end

