-- ==== Sys2Proof/Machine/QMultiply.lean ====
section
/-! DEFINITION. QMultiply: DKHM8 and DKHM16 (spec/40_simd_q_multiply.md). -/

namespace Sys2Proof.Machine

/-- `khm_N(a, b)` (R40): both inputs most negative saturate; any other product is shifted right by N-1 with no
rounding, toward minus infinity. -/
def khm (n : Nat) (a b : BitVec n) : Sat n :=
  if a = BitVec.ofInt n (-2 ^ (n - 1)) ∧ b = BitVec.ofInt n (-2 ^ (n - 1)) then
    ⟨BitVec.ofInt n (2 ^ (n - 1) - 1), true⟩
  else
    ⟨BitVec.ofInt n (a.toInt * b.toInt / 2 ^ (n - 1)), false⟩

/-- The value of DKHM8 on two pairs (R41). -/
def dkhm8 (a b : Pair) : Sat 64 := zipBytes (khm 8) a b

/-- The value of DKHM16 on two pairs (R42). -/
def dkhm16 (a b : Pair) : Sat 64 := zipHalves (khm 16) a b

/-- DKHM8 Rd, Rs1, Rs2 (R41). -/
def execDkhm8 (rd rs1 rs2 : RegNum) (s : State) : Host.Outcome State Fault Refusal :=
  whenWellFormed (.dkhm8 rd rs1 rs2) s (s.finishPair rd (dkhm8 (s.readPair rs1) (s.readPair rs2)))

/-- DKHM16 Rd, Rs1, Rs2 (R42). -/
def execDkhm16 (rd rs1 rs2 : RegNum) (s : State) : Host.Outcome State Fault Refusal :=
  whenWellFormed (.dkhm16 rd rs1 rs2) s (s.finishPair rd (dkhm16 (s.readPair rs1) (s.readPair rs2)))

end Sys2Proof.Machine
end

