-- ==== Sys2Proof/Machine/Shift.lean ====
section
/-! DEFINITION. Shift: DKSLRA8 and DKSLRA16 (spec/42_simd_shift.md). -/

namespace Sys2Proof.Machine

/-- The amount of a right shift (R50): the magnitude of the negative control field, with -N behaving as -(N-1). -/
def rightAmount (n : Nat) {l : Nat} (c : BitVec l) : Nat :=
  let sa := (-c.toInt).toNat
  if sa = n then n - 1 else sa

/-- `kslra_N(a, c)` (R50): a negative control field shifts right arithmetically, `sext_N(a[N-1 : sa])`, with no
rounding (90_conflicts.md C5); a field of zero or more shifts left with saturation (C2). -/
def kslra (n : Nat) {l : Nat} (a : BitVec n) (c : BitVec l) : Sat n :=
  if c.msb then
    ⟨(a.extractLsb' (rightAmount n c) (n - rightAmount n c)).signExtend n, false⟩
  else
    saturate n (a.toInt * 2 ^ (c.extractLsb' 0 (l - 1)).toNat)

/-- The value of DKSLRA8 on a pair and the single register Rs2 (R51). -/
def dkslra8 (a : Pair) (b : Word) : Sat 64 :=
  mapBytes (fun e => kslra 8 e (controlField 4 b)) a

/-- The value of DKSLRA16 on a pair and the single register Rs2 (R52). -/
def dkslra16 (a : Pair) (b : Word) : Sat 64 :=
  mapHalves (fun e => kslra 16 e (controlField 5 b)) a

/-- DKSLRA8 Rd, Rs1, Rs2 (R51). Rs2 is read before Rd is written (R16, D10; log 15). -/
def execDkslra8 (rd rs1 rs2 : RegNum) (s : State) : Host.Outcome State Fault Refusal :=
  whenWellFormed (.dkslra8 rd rs1 rs2) s (s.finishPair rd (dkslra8 (s.readPair rs1) (s.readReg rs2)))

/-- DKSLRA16 Rd, Rs1, Rs2 (R52). Rs2 is read before Rd is written (R16, D10; log 15). -/
def execDkslra16 (rd rs1 rs2 : RegNum) (s : State) : Host.Outcome State Fault Refusal :=
  whenWellFormed (.dkslra16 rd rs1 rs2) s (s.finishPair rd (dkslra16 (s.readPair rs1) (s.readReg rs2)))

end Sys2Proof.Machine
end

