-- ==== Sys2Proof/Machine/Dispatch.lean ====
section
/-! DEFINITION. Dispatch: one arm per instruction (spec/70_reset_and_hazards.md R82, "execute i by its rule"). -/

namespace Sys2Proof.Machine

def exec (i : Instr) (s : State) : Host.Outcome State Fault Refusal :=
  match i with
  | .dkhm8 rd rs1 rs2 => Sys2Proof.Machine.execDkhm8 rd rs1 rs2 s
  | .dkhm16 rd rs1 rs2 => Sys2Proof.Machine.execDkhm16 rd rs1 rs2 s
  | .dkabs8 rd rs1 => Sys2Proof.Machine.execDkabs8 rd rs1 s
  | .dkabs16 rd rs1 => Sys2Proof.Machine.execDkabs16 rd rs1 s
  | .dkslra8 rd rs1 rs2 => Sys2Proof.Machine.execDkslra8 rd rs1 rs2 s
  | .dkslra16 rd rs1 rs2 => Sys2Proof.Machine.execDkslra16 rd rs1 rs2 s
  | .dkadd8 rd rs1 rs2 => Sys2Proof.Machine.execDkadd8 rd rs1 rs2 s
  | .dkadd16 rd rs1 rs2 => Sys2Proof.Machine.execDkadd16 rd rs1 rs2 s
  | .dksub8 rd rs1 rs2 => Sys2Proof.Machine.execDksub8 rd rs1 rs2 s
  | .dksub16 rd rs1 rs2 => Sys2Proof.Machine.execDksub16 rd rs1 rs2 s
  | .expd80 rd rs1 => Sys2Proof.Machine.execExpd80 rd rs1 s
  | .expd81 rd rs1 => Sys2Proof.Machine.execExpd81 rd rs1 s
  | .expd82 rd rs1 => Sys2Proof.Machine.execExpd82 rd rs1 s
  | .expd83 rd rs1 => Sys2Proof.Machine.execExpd83 rd rs1 s

end Sys2Proof.Machine
end

