-- ==== Sys2Proof/Machine/Fetch.lean ====
section
/-! DEFINITION. Fetch: the program lookup of spec/20_memory.md R22 and spec/70_reset_and_hazards.md R82. -/

namespace Sys2Proof.Machine

/-- What stands at pc. -/
inductive Fetched where
  /-- pc is the end address base + 4n (R83). -/
  | ended
  /-- pc is neither an item's address nor the end address (R22). -/
  | outside
  /-- The item at pc. -/
  | item (it : Item)
  deriving DecidableEq, Repr

/-- The lookup at pc (R22, R82), in exact integers: the end address first, then the range and the alignment to
ILEN, then the item. -/
def State.fetch (s : State) : Fetched :=
  let n := s.prog.length
  let base := s.base.toNat
  let pc := s.pc.toNat
  if pc = base + 4 * n then .ended
  else if pc < base ∨ pc > base + 4 * n ∨ (pc - base) % 4 ≠ 0 then .outside
  else
    match s.prog[(pc - base) / 4]? with
    | some it => .item it
    | none => .outside

/-- The load of a one-word program at pc, so that the word is what the next fetch finds there (log 4). -/
def State.loadWordAtPc (s : State) (w : Word) : State :=
  { s with base := s.pc, prog := [.word w] }

end Sys2Proof.Machine
end

