-- ==== Sys2Proof/Machine/Step.lean ====
section
/-! DEFINITION. Step: one step of the machine (spec/70_reset_and_hazards.md R82). -/

namespace Sys2Proof.Machine

/-- The step function of R82: the end of the run, a fetch outside the program, an item that is none of the 14
instructions, or the execution of the fetched instruction, which checks its operands first. -/
def step (s : State) : Host.Outcome State Fault Refusal :=
  match s.fetch with
  | .ended => .fault (.ended s)
  | .outside => .refused (.fetchOutsideProgram s.pc)
  | .item it =>
    match it.instr? with
    | none => .refused (.notInScope s.pc)
    | some i => exec i s

/-- `s` with the instruction whose bits are `w` loaded as a one-word program at pc, where the next step fetches it
(log 4). -/
def State.withFetchWord (s : State) (nbits w : Nat) : State :=
  s.loadWordAtPc (tableWord nbits w)

end Sys2Proof.Machine
end

