-- ==== Sys2Proof/Machine/Intrinsics.lean ====
section
/-! DEFINITION. Intrinsics: the 14 C intrinsics of spec/30_encoding.md R35 as functions of their arguments. `a` is
the value of Rs1, `b` that of Rs2, the return value is what is written to Rd (D16; log 20). An `unsigned long long`
is a pair value, an `unsigned long` and an `int` are 32-bit words. The effect on OV is the instruction's. -/

namespace Sys2Proof.Machine

/-- `unsigned long long __RV_DKHM8(unsigned long long a, unsigned long long b)` -/
def rvDkhm8 (a b : Pair) : Pair := (dkhm8 a b).value

/-- `unsigned long long __RV_DKHM16(unsigned long long a, unsigned long long b)` -/
def rvDkhm16 (a b : Pair) : Pair := (dkhm16 a b).value

/-- `unsigned long long __RV_DKABS8(unsigned long long a)` -/
def rvDkabs8 (a : Pair) : Pair := (dkabs8 a).value

/-- `unsigned long long __RV_DKABS16(unsigned long long a)` -/
def rvDkabs16 (a : Pair) : Pair := (dkabs16 a).value

/-- `unsigned long long __RV_DKSLRA8(unsigned long long a, int b)` -/
def rvDkslra8 (a : Pair) (b : Word) : Pair := (dkslra8 a b).value

/-- `unsigned long long __RV_DKSLRA16(unsigned long long a, int b)` -/
def rvDkslra16 (a : Pair) (b : Word) : Pair := (dkslra16 a b).value

/-- `unsigned long long __RV_DKADD8(unsigned long long a, unsigned long long b)` -/
def rvDkadd8 (a b : Pair) : Pair := (dkadd8 a b).value

/-- `unsigned long long __RV_DKADD16(unsigned long long a, unsigned long long b)` -/
def rvDkadd16 (a b : Pair) : Pair := (dkadd16 a b).value

/-- `unsigned long long __RV_DKSUB8(unsigned long long a, unsigned long long b)` -/
def rvDksub8 (a b : Pair) : Pair := (dksub8 a b).value

/-- `unsigned long long __RV_DKSUB16(unsigned long long a, unsigned long long b)` -/
def rvDksub16 (a b : Pair) : Pair := (dksub16 a b).value

/-- `unsigned long __RV_EXPD80(unsigned long a)` -/
def rvExpd80 (a : Word) : Word := expd 0 a

/-- `unsigned long __RV_EXPD81(unsigned long a)` -/
def rvExpd81 (a : Word) : Word := expd 1 a

/-- `unsigned long __RV_EXPD82(unsigned long a)` -/
def rvExpd82 (a : Word) : Word := expd 2 a

/-- `unsigned long __RV_EXPD83(unsigned long a)` -/
def rvExpd83 (a : Word) : Word := expd 3 a

end Sys2Proof.Machine
end

