-- ==== Sys2Proof/Machine/Launch.lean ====
section
/-! DEFINITION. Launch: the start of a run (spec/70_reset_and_hazards.md R80, spec/20_memory.md R24). -/

namespace Sys2Proof.Machine

/-- The address of item k of a program at `base` (R22). -/
def itemAddress (base : Word) (k : Nat) : Word := base + BitVec.ofNat 32 (4 * k)

/-- The launch state of R80: x1..x31 = REG_RESET, pc = RESET_PC, OV = OV_RESET, and the program at base = RESET_PC. -/
def launchState (regReset : Vector Word 31) (resetPc : Word) (ovReset : Bool) (prog : List Item) : State where
  regs := regReset
  pc := resetPc
  ov := ovReset
  base := resetPc
  prog := prog

/-- A launch (R80). Its premises are checked in R80's order: RESET_PC is a multiple of 4, else `misalignedPc` (R24,
R71); the program ends below 2^32, else `programTooLong`; every item is one of the 14 instructions, else `notInScope`
at the first item that is not. An ill-formed operand is admitted, and refused when reached (log 8). -/
def launch (regReset : Vector Word 31) (resetPc : Word) (ovReset : Bool) (prog : List Item) :
    Host.Outcome State Fault Refusal :=
  if resetPc.toNat % 4 ≠ 0 then .refused (.misalignedPc resetPc)
  else if resetPc.toNat + 4 * prog.length ≥ 2 ^ 32 then .refused (.programTooLong resetPc)
  else
    match prog.findIdx? (fun it => it.instr?.isNone) with
    | some k => .refused (.notInScope (itemAddress resetPc k))
    | none => .next (launchState regReset resetPc ovReset prog)

end Sys2Proof.Machine
end

