-- ==== Sys2Proof/Safety.lean ====
section
/-! DEFINITION. Safety: the terms in which claims about the machine are stated: the premises of a run
(spec/70_reset_and_hazards.md R80), a run that ends (R83), and what an instruction leaves unchanged. -/

namespace Sys2Proof.Machine

/-- The launch premises of R80 as they stand in every state of an admitted run: base is a multiple of 4, the end
address is below 2^32, and pc is the address of an item or the end address (R14, R22). -/
structure State.OnCourse (s : State) : Prop where
  base_aligned : s.base.toNat % 4 = 0
  program_fits : s.base.toNat + 4 * s.prog.length < 2 ^ 32
  pc_in_program : ∃ k ≤ s.prog.length, s.pc.toNat = s.base.toNat + 4 * k

/-- Every item of the program is one of the 14 instructions with well-formed operands (R32, R80). -/
def State.ProgramWellFormed (s : State) : Prop :=
  ∀ it ∈ s.prog, ∃ i : Instr, it.instr? = some i ∧ i.WellFormed

/-- The general registers other than Rd of a single-destination instruction, and the program, are as before. -/
structure KeepsAllButReg (s t : State) (rd : RegNum) : Prop where
  regs : ∀ r : RegNum, r ≠ rd → t.readReg r = s.readReg r
  base : t.base = s.base
  prog : t.prog = s.prog

/-- The general registers outside the Rd pair of a SIMD instruction, and the program, are as before. -/
structure KeepsAllButPair (s t : State) (rd : RegNum) : Prop where
  regs : ∀ r : RegNum, r ≠ rd → r ≠ pairHigh rd → t.readReg r = s.readReg r
  base : t.base = s.base
  prog : t.prog = s.prog

/-- What a SIMD instruction on bytes leaves: byte k of the Rd pair is `value k`; OV is set if some byte meets `sat`
and unchanged otherwise (R15); pc has advanced (R14); nothing else has changed. -/
structure BytesEffect (s t : State) (rd : RegNum) (value : Nat → Byte) (sat : Nat → Prop) : Prop where
  bytes : ∀ k < 8, byteOf (t.readPair rd) k = value k
  ov    : t.ov = true ↔ s.ov = true ∨ ∃ k < 8, sat k
  pc    : t.pc = s.pc + 4
  keeps : KeepsAllButPair s t rd

/-- What a SIMD instruction on halfwords leaves. -/
structure HalvesEffect (s t : State) (rd : RegNum) (value : Nat → Half) (sat : Nat → Prop) : Prop where
  halves : ∀ k < 4, halfOf (t.readPair rd) k = value k
  ov     : t.ov = true ↔ s.ov = true ∨ ∃ k < 4, sat k
  pc     : t.pc = s.pc + 4
  keeps  : KeepsAllButPair s t rd

/-- What an EXPD8n leaves: each byte of Rd is `b`, or nothing is written where Rd is x0 (R10, R62); OV is unchanged;
pc has advanced; nothing else has changed. -/
structure ExpandEffect (s t : State) (rd : RegNum) (b : Byte) : Prop where
  bytes : rd ≠ 0 → ∀ k < 4, byteOf (t.readReg rd) k = b
  x0    : rd = 0 → t.regs = s.regs
  ov    : t.ov = s.ov
  pc    : t.pc = s.pc + 4
  keeps : KeepsAllButReg s t rd

/-- The register numbers a pair operand may hold (R32): even, 2 to 30. -/
abbrev LegalPair (r : RegNum) : Prop := r.val % 2 = 0 ∧ 2 ≤ r.val

/-- What R32 asks of one operand: a pair operand is even and in 2 to 30, a single one is any register. -/
abbrev LegalOperand (o : Operand) : Prop := o.kind = .pair → LegalPair o.reg

/-- The general registers an operand denotes (R11, R12). -/
def operandRegs (o : Operand) : List RegNum :=
  match o.kind with
  | .single => [o.reg]
  | .pair => [o.reg, pairHigh o.reg]

/-- The general registers an instruction reads: those of its operands other than Rd (R11). -/
def sourceRegs (i : Instr) : List RegNum :=
  (i.operands.filter fun o => o.slot != .rd).flatMap operandRegs

/-- The general registers an instruction writes: those of Rd (R11). -/
def destRegs (i : Instr) : List RegNum :=
  (i.operands.filter fun o => o.slot == .rd).flatMap operandRegs

/-- The run from `s` takes exactly `n` steps and ends in `t` (R83). -/
def EndsAfter (n : Nat) (s t : State) : Prop :=
  Host.Core.run core n s = .next t ∧ step t = .fault (.ended t)

/-- No step of the run from `s` is refused (R71, R83: the end state is then final). -/
def NeverRefused (s : State) : Prop :=
  ∀ n r, Host.Core.run core n s ≠ .refused r

end Sys2Proof.Machine
end

