-- ==== Sys2Proof/Certificates/Slice0/Obligations.lean ====
section
/-! DEFINITION. Obligations: the statements about the machine, from the spec's numbered rules. -/

open Sys2Proof Sys2Proof.Machine

/-! ### The element functions -/

/-- R40: the saturating Q multiply. Both inputs most negative give the greatest value with the saturation bit; any
other pair gives bits 2N-2 : N-1 of the 2N-bit product, which is the floor of the product over 2^(N-1) and fits N
bits, without it. -/
def Obligations.KhmElement : Prop :=
  ∀ n, n = 8 ∨ n = 16 → ∀ a b : BitVec n,
    (a = BitVec.ofInt n (-2 ^ (n - 1)) ∧ b = BitVec.ofInt n (-2 ^ (n - 1)) →
      khm n a b = ⟨BitVec.ofInt n (2 ^ (n - 1) - 1), true⟩) ∧
    (¬(a = BitVec.ofInt n (-2 ^ (n - 1)) ∧ b = BitVec.ofInt n (-2 ^ (n - 1))) →
      (khm n a b).value.toInt = a.toInt * b.toInt / 2 ^ (n - 1) ∧
      (khm n a b).value = (BitVec.ofInt (2 * n) (a.toInt * b.toInt)).extractLsb' (n - 1) n ∧
      (khm n a b).sat = false)

/-- 90_conflicts.md C7: the special case of the pseudocode and a general clamp of the shifted product to the signed
range are the same function, with OV set in the same single case. -/
def Obligations.KhmIsClampedProduct : Prop :=
  ∀ n, n = 8 ∨ n = 16 → ∀ a b : BitVec n,
    khm n a b = saturate n (a.toInt * b.toInt / 2 ^ (n - 1))

/-- R45: the saturating absolute value, case by case; it equals sat_N of the magnitude, and its top bit is 0. -/
def Obligations.KabsElement : Prop :=
  ∀ n, n = 8 ∨ n = 16 → ∀ a : BitVec n,
    (a = BitVec.ofInt n (-2 ^ (n - 1)) → kabs n a = ⟨BitVec.ofInt n (2 ^ (n - 1) - 1), true⟩) ∧
    (a ≠ BitVec.ofInt n (-2 ^ (n - 1)) ∧ a.msb = true → kabs n a = ⟨BitVec.ofInt n (-a.toInt), false⟩) ∧
    (a.msb = false → kabs n a = ⟨a, false⟩) ∧
    kabs n a = saturate n |a.toInt| ∧
    (kabs n a).value.msb = false

/-- R50: a control field that is negative as a signed number shifts right arithmetically by its magnitude, with -N
acting as -(N-1), and never saturates; any other field is a left shift by its low bits with signed saturation. -/
def Obligations.KslraElement : Prop :=
  ∀ n l, n = 8 ∧ l = 4 ∨ n = 16 ∧ l = 5 → ∀ (a : BitVec n) (c : BitVec l),
    (c.toInt < 0 →
      (kslra n a c).value.toInt = a.toInt / 2 ^ (if (-c.toInt).toNat = n then n - 1 else (-c.toInt).toNat) ∧
      (kslra n a c).sat = false) ∧
    (0 ≤ c.toInt →
      (kslra n a c).value.toInt = max (-2 ^ (n - 1)) (min (2 ^ (n - 1) - 1) (a.toInt * 2 ^ c.toNat)) ∧
      ((kslra n a c).sat = true ↔
        a.toInt * 2 ^ c.toNat > 2 ^ (n - 1) - 1 ∨ a.toInt * 2 ^ c.toNat < -2 ^ (n - 1)))

/-- The source's own facts S5 and S8 (95_test_vectors.md section 1): the control field -8 (0x8) acts as -7 (0x9), and
-16 (0x10) as -15 (0x11). -/
def Obligations.MostNegativeShiftActsAsNext : Prop :=
  (∀ a : Byte, kslra 8 a (0x8 : BitVec 4) = kslra 8 a (0x9 : BitVec 4)) ∧
  (∀ a : Half, kslra 16 a (0x10 : BitVec 5) = kslra 16 a (0x11 : BitVec 5))

/-- The source's own facts S6 and S9 (95_test_vectors.md section 1): Rs2[31:4] does not affect DKSLRA8, nor Rs2[31:5]
DKSLRA16. -/
def Obligations.ShiftIgnoresUpperBits : Prop :=
  (∀ (a : Pair) (b b' : Word), b.extractLsb' 0 4 = b'.extractLsb' 0 4 → dkslra8 a b = dkslra8 a b') ∧
  (∀ (a : Pair) (b b' : Word), b.extractLsb' 0 5 = b'.extractLsb' 0 5 → dkslra16 a b = dkslra16 a b')

/-- R55: the exact signed sum and difference (Rs1 minus Rs2) lie in N+1 bits, are clamped to the signed range of N
bits, and the saturation bit says whether clamping changed them. -/
def Obligations.AddSubElement : Prop :=
  ∀ n, n = 8 ∨ n = 16 → ∀ a b : BitVec n,
    (-2 ^ n ≤ a.toInt + b.toInt ∧ a.toInt + b.toInt ≤ 2 ^ n - 1 ∧
      (kadd n a b).value.toInt = max (-2 ^ (n - 1)) (min (2 ^ (n - 1) - 1) (a.toInt + b.toInt)) ∧
      ((kadd n a b).sat = true ↔ (kadd n a b).value.toInt ≠ a.toInt + b.toInt)) ∧
    (-2 ^ n ≤ a.toInt - b.toInt ∧ a.toInt - b.toInt ≤ 2 ^ n - 1 ∧
      (ksub n a b).value.toInt = max (-2 ^ (n - 1)) (min (2 ^ (n - 1) - 1) (a.toInt - b.toInt)) ∧
      ((ksub n a b).sat = true ↔ (ksub n a b).value.toInt ≠ a.toInt - b.toInt))

/-- R62: for n in 0..3 every byte of expd_n(v) is byte n of v, and the word is that byte times 0x01010101. -/
def Obligations.ExpdElement : Prop :=
  ∀ n < 4, ∀ v : Word,
    (∀ k < 4, (expd n v).extractLsb' (8 * k) 8 = v.extractLsb' (8 * n) 8) ∧
    (expd n v).toNat = (v.extractLsb' (8 * n) 8).toNat * 0x01010101

/-! ### The result of every instruction, with its frame -/

/-- R41: on legal pair operands DKHM8 answers a next state, the one described, and on any other operands it is refused.
Byte k of Rd is byte k of Rs1 times byte k of Rs2, shifted right by 7 toward minus infinity, and 0x7F with OV where
both are 0x80. The pair convention (D3), pc + 4 (D7) and the refusals (D4, D5) are the spec's decisions (logs 9,
12, 13). -/
def Obligations.Dkhm8Result : Prop :=
  ∀ (rd rs1 rs2 : RegNum) (s : State),
    (LegalPair rd ∧ LegalPair rs1 ∧ LegalPair rs2 →
      ∃ t, exec (.dkhm8 rd rs1 rs2) s = .next t ∧
        BytesEffect s t rd
          (fun k =>
            if byteOf (s.readPair rs1) k = 0x80 ∧ byteOf (s.readPair rs2) k = 0x80 then 0x7F
            else BitVec.ofInt 8 ((byteOf (s.readPair rs1) k).toInt * (byteOf (s.readPair rs2) k).toInt / 2 ^ 7))
          (fun k =>
            byteOf (s.readPair rs1) k = 0x80 ∧ byteOf (s.readPair rs2) k = 0x80)) ∧
    (¬(LegalPair rd ∧ LegalPair rs1 ∧ LegalPair rs2) → ∃ r, exec (.dkhm8 rd rs1 rs2) s = .refused r)

/-- R42: on legal pair operands DKHM16 answers a next state, the one described, and on any other operands it is
refused. Halfword k of Rd is halfword k of Rs1 times halfword k of Rs2, shifted right by 15 toward minus infinity,
and 0x7FFF with OV where both are 0x8000. The pair convention (D3), pc + 4 (D7) and the refusals (D4, D5) are the
spec's decisions (logs 9, 12, 13). -/
def Obligations.Dkhm16Result : Prop :=
  ∀ (rd rs1 rs2 : RegNum) (s : State),
    (LegalPair rd ∧ LegalPair rs1 ∧ LegalPair rs2 →
      ∃ t, exec (.dkhm16 rd rs1 rs2) s = .next t ∧
        HalvesEffect s t rd
          (fun k =>
            if halfOf (s.readPair rs1) k = 0x8000 ∧ halfOf (s.readPair rs2) k = 0x8000 then 0x7FFF
            else BitVec.ofInt 16 ((halfOf (s.readPair rs1) k).toInt * (halfOf (s.readPair rs2) k).toInt / 2 ^ 15))
          (fun k =>
            halfOf (s.readPair rs1) k = 0x8000 ∧ halfOf (s.readPair rs2) k = 0x8000)) ∧
    (¬(LegalPair rd ∧ LegalPair rs1 ∧ LegalPair rs2) → ∃ r, exec (.dkhm16 rd rs1 rs2) s = .refused r)

/-- R46: on legal pair operands DKABS8 answers a next state, the one described, and on any other operands it is
refused. Byte k of Rd is the absolute value of byte k of Rs1, and 0x7F with OV where it is 0x80. The pair
convention (D3), pc + 4 (D7) and the refusals (D4, D5) are the spec's decisions (logs 9, 12, 13). -/
def Obligations.Dkabs8Result : Prop :=
  ∀ (rd rs1 : RegNum) (s : State),
    (LegalPair rd ∧ LegalPair rs1 →
      ∃ t, exec (.dkabs8 rd rs1) s = .next t ∧
        BytesEffect s t rd
          (fun k =>
            if byteOf (s.readPair rs1) k = 0x80 then 0x7F
            else if (byteOf (s.readPair rs1) k).toInt < 0 then BitVec.ofInt 8 (-(byteOf (s.readPair rs1) k).toInt)
            else byteOf (s.readPair rs1) k)
          (fun k =>
            byteOf (s.readPair rs1) k = 0x80)) ∧
    (¬(LegalPair rd ∧ LegalPair rs1) → ∃ r, exec (.dkabs8 rd rs1) s = .refused r)

/-- R47: on legal pair operands DKABS16 answers a next state, the one described, and on any other operands it is
refused. Halfword k of Rd is the absolute value of halfword k of Rs1, and 0x7FFF with OV where it is 0x8000. The
pair convention (D3), pc + 4 (D7) and the refusals (D4, D5) are the spec's decisions (logs 9, 12, 13). -/
def Obligations.Dkabs16Result : Prop :=
  ∀ (rd rs1 : RegNum) (s : State),
    (LegalPair rd ∧ LegalPair rs1 →
      ∃ t, exec (.dkabs16 rd rs1) s = .next t ∧
        HalvesEffect s t rd
          (fun k =>
            if halfOf (s.readPair rs1) k = 0x8000 then 0x7FFF
            else if (halfOf (s.readPair rs1) k).toInt < 0 then BitVec.ofInt 16 (-(halfOf (s.readPair rs1) k).toInt)
            else halfOf (s.readPair rs1) k)
          (fun k =>
            halfOf (s.readPair rs1) k = 0x8000)) ∧
    (¬(LegalPair rd ∧ LegalPair rs1) → ∃ r, exec (.dkabs16 rd rs1) s = .refused r)

/-- R51: on legal pair operands DKSLRA8 answers a next state, the one described, and on any other operands it is
refused. With c the signed field x[t][3:0] read before any write, byte k of Rd is byte k of Rs1 shifted right
arithmetically by -c (8 acts as 7) where c is negative, else shifted left by c with saturation to 8 bits; OV is set
only by a left shift. The pair convention (D3), pc + 4 (D7) and the refusals (D4, D5) are the spec's decisions
(logs 9, 12, 13). -/
def Obligations.Dkslra8Result : Prop :=
  ∀ (rd rs1 rs2 : RegNum) (s : State),
    (LegalPair rd ∧ LegalPair rs1 →
        let c : BitVec 4 := (s.readReg rs2).extractLsb' 0 4
      ∃ t, exec (.dkslra8 rd rs1 rs2) s = .next t ∧
        BytesEffect s t rd
          (fun k =>
            if c.toInt < 0 then BitVec.ofInt 8 ((byteOf (s.readPair rs1) k).toInt / 2 ^ min 7 (-c.toInt).toNat)
            else BitVec.ofInt 8 (max (-128) (min 127 ((byteOf (s.readPair rs1) k).toInt * 2 ^ c.toNat))))
          (fun k =>
            0 ≤ c.toInt ∧ ((byteOf (s.readPair rs1) k).toInt * 2 ^ c.toNat > 127 ∨
            (byteOf (s.readPair rs1) k).toInt * 2 ^ c.toNat < -128))) ∧
    (¬(LegalPair rd ∧ LegalPair rs1) → ∃ r, exec (.dkslra8 rd rs1 rs2) s = .refused r)

/-- R52: on legal pair operands DKSLRA16 answers a next state, the one described, and on any other operands it is
refused. With c the signed field x[t][4:0] read before any write, halfword k of Rd is halfword k of Rs1 shifted
right arithmetically by -c (16 acts as 15) where c is negative, without rounding, else shifted left by c with
saturation to 16 bits; OV is set only by a left shift. The pair convention (D3), pc + 4 (D7) and the refusals (D4,
D5) are the spec's decisions (logs 9, 12, 13). -/
def Obligations.Dkslra16Result : Prop :=
  ∀ (rd rs1 rs2 : RegNum) (s : State),
    (LegalPair rd ∧ LegalPair rs1 →
        let c : BitVec 5 := (s.readReg rs2).extractLsb' 0 5
      ∃ t, exec (.dkslra16 rd rs1 rs2) s = .next t ∧
        HalvesEffect s t rd
          (fun k =>
            if c.toInt < 0 then BitVec.ofInt 16 ((halfOf (s.readPair rs1) k).toInt / 2 ^ min 15 (-c.toInt).toNat)
            else BitVec.ofInt 16 (max (-32768) (min 32767 ((halfOf (s.readPair rs1) k).toInt * 2 ^ c.toNat))))
          (fun k =>
            0 ≤ c.toInt ∧ ((halfOf (s.readPair rs1) k).toInt * 2 ^ c.toNat > 32767 ∨
            (halfOf (s.readPair rs1) k).toInt * 2 ^ c.toNat < -32768))) ∧
    (¬(LegalPair rd ∧ LegalPair rs1) → ∃ r, exec (.dkslra16 rd rs1 rs2) s = .refused r)

/-- R56: on legal pair operands DKADD8 answers a next state, the one described, and on any other operands it is
refused. Byte k of Rd is the signed sum of byte k of Rs1 and byte k of Rs2 clamped to -128 .. 127, with OV where it
was clamped. The pair convention (D3), pc + 4 (D7) and the refusals (D4, D5) are the spec's decisions (logs 9, 12,
13). -/
def Obligations.Dkadd8Result : Prop :=
  ∀ (rd rs1 rs2 : RegNum) (s : State),
    (LegalPair rd ∧ LegalPair rs1 ∧ LegalPair rs2 →
      ∃ t, exec (.dkadd8 rd rs1 rs2) s = .next t ∧
        BytesEffect s t rd
          (fun k =>
            BitVec.ofInt 8 (max (-128) (min 127 ((byteOf (s.readPair rs1) k).toInt + (byteOf (s.readPair rs2) k).toInt))))
          (fun k =>
            (byteOf (s.readPair rs1) k).toInt + (byteOf (s.readPair rs2) k).toInt > 127 ∨
            (byteOf (s.readPair rs1) k).toInt + (byteOf (s.readPair rs2) k).toInt < -128)) ∧
    (¬(LegalPair rd ∧ LegalPair rs1 ∧ LegalPair rs2) → ∃ r, exec (.dkadd8 rd rs1 rs2) s = .refused r)

/-- R57: on legal pair operands DKADD16 answers a next state, the one described, and on any other operands it is
refused. Halfword k of Rd is the signed sum of halfword k of Rs1 and of Rs2 clamped to -32768 .. 32767, with OV
where it was clamped. The pair convention (D3), pc + 4 (D7) and the refusals (D4, D5) are the spec's decisions
(logs 9, 12, 13). -/
def Obligations.Dkadd16Result : Prop :=
  ∀ (rd rs1 rs2 : RegNum) (s : State),
    (LegalPair rd ∧ LegalPair rs1 ∧ LegalPair rs2 →
      ∃ t, exec (.dkadd16 rd rs1 rs2) s = .next t ∧
        HalvesEffect s t rd
          (fun k =>
            BitVec.ofInt 16 (max (-32768) (min 32767 ((halfOf (s.readPair rs1) k).toInt + (halfOf (s.readPair rs2) k).toInt))))
          (fun k =>
            (halfOf (s.readPair rs1) k).toInt + (halfOf (s.readPair rs2) k).toInt > 32767 ∨
            (halfOf (s.readPair rs1) k).toInt + (halfOf (s.readPair rs2) k).toInt < -32768)) ∧
    (¬(LegalPair rd ∧ LegalPair rs1 ∧ LegalPair rs2) → ∃ r, exec (.dkadd16 rd rs1 rs2) s = .refused r)

/-- R58: on legal pair operands DKSUB8 answers a next state, the one described, and on any other operands it is
refused. Byte k of Rd is byte k of Rs1 minus byte k of Rs2, signed, clamped to -128 .. 127, with OV where it was
clamped. The pair convention (D3), pc + 4 (D7) and the refusals (D4, D5) are the spec's decisions (logs 9, 12, 13). -/
def Obligations.Dksub8Result : Prop :=
  ∀ (rd rs1 rs2 : RegNum) (s : State),
    (LegalPair rd ∧ LegalPair rs1 ∧ LegalPair rs2 →
      ∃ t, exec (.dksub8 rd rs1 rs2) s = .next t ∧
        BytesEffect s t rd
          (fun k =>
            BitVec.ofInt 8 (max (-128) (min 127 ((byteOf (s.readPair rs1) k).toInt - (byteOf (s.readPair rs2) k).toInt))))
          (fun k =>
            (byteOf (s.readPair rs1) k).toInt - (byteOf (s.readPair rs2) k).toInt > 127 ∨
            (byteOf (s.readPair rs1) k).toInt - (byteOf (s.readPair rs2) k).toInt < -128)) ∧
    (¬(LegalPair rd ∧ LegalPair rs1 ∧ LegalPair rs2) → ∃ r, exec (.dksub8 rd rs1 rs2) s = .refused r)

/-- R59: on legal pair operands DKSUB16 answers a next state, the one described, and on any other operands it is
refused. Halfword k of Rd is halfword k of Rs1 minus halfword k of Rs2, signed, clamped to -32768 .. 32767, with OV
where it was clamped. The pair convention (D3), pc + 4 (D7) and the refusals (D4, D5) are the spec's decisions
(logs 9, 12, 13). -/
def Obligations.Dksub16Result : Prop :=
  ∀ (rd rs1 rs2 : RegNum) (s : State),
    (LegalPair rd ∧ LegalPair rs1 ∧ LegalPair rs2 →
      ∃ t, exec (.dksub16 rd rs1 rs2) s = .next t ∧
        HalvesEffect s t rd
          (fun k =>
            BitVec.ofInt 16 (max (-32768) (min 32767 ((halfOf (s.readPair rs1) k).toInt - (halfOf (s.readPair rs2) k).toInt))))
          (fun k =>
            (halfOf (s.readPair rs1) k).toInt - (halfOf (s.readPair rs2) k).toInt > 32767 ∨
            (halfOf (s.readPair rs1) k).toInt - (halfOf (s.readPair rs2) k).toInt < -32768)) ∧
    (¬(LegalPair rd ∧ LegalPair rs1 ∧ LegalPair rs2) → ∃ r, exec (.dksub16 rd rs1 rs2) s = .refused r)

/-- R63: EXPD80 answers a next state on every operand: the four bytes of Rd are byte 0 of the old Rs1; Rd = x0 discards
the result; OV and every other register are unchanged. pc + 4 (D7), x0 (D2) and the numbering of bytes (D18) are
the spec's decisions (logs 11, 13, 14). -/
def Obligations.Expd80Result : Prop :=
  ∀ (rd rs1 : RegNum) (s : State),
    ∃ t, exec (.expd80 rd rs1) s = .next t ∧
      ExpandEffect s t rd ((s.readReg rs1).extractLsb' 0 8)

/-- R64: EXPD81 answers a next state on every operand: the four bytes of Rd are byte 1 of the old Rs1; Rd = x0 discards
the result; OV and every other register are unchanged. pc + 4 (D7), x0 (D2) and the numbering of bytes (D18) are
the spec's decisions (logs 11, 13, 14). -/
def Obligations.Expd81Result : Prop :=
  ∀ (rd rs1 : RegNum) (s : State),
    ∃ t, exec (.expd81 rd rs1) s = .next t ∧
      ExpandEffect s t rd ((s.readReg rs1).extractLsb' 8 8)

/-- R65: EXPD82 answers a next state on every operand: the four bytes of Rd are byte 2 of the old Rs1; Rd = x0 discards
the result; OV and every other register are unchanged. pc + 4 (D7), x0 (D2) and the numbering of bytes (D18) are
the spec's decisions (logs 11, 13, 14). -/
def Obligations.Expd82Result : Prop :=
  ∀ (rd rs1 : RegNum) (s : State),
    ∃ t, exec (.expd82 rd rs1) s = .next t ∧
      ExpandEffect s t rd ((s.readReg rs1).extractLsb' 16 8)

/-- R66: EXPD83 answers a next state on every operand: the four bytes of Rd are byte 3 of the old Rs1; Rd = x0 discards
the result; OV and every other register are unchanged. pc + 4 (D7), x0 (D2) and the numbering of bytes (D18) are
the spec's decisions (logs 11, 13, 14). -/
def Obligations.Expd83Result : Prop :=
  ∀ (rd rs1 : RegNum) (s : State),
    ∃ t, exec (.expd83 rd rs1) s = .next t ∧
      ExpandEffect s t rd ((s.readReg rs1).extractLsb' 24 8)

/-- 30_encoding.md section 4 (D16; log 20, the spec's own reading): an instruction on legal operands answers a next
state whose Rd holds what the C intrinsic returns on the old Rs1 and Rs2. -/
def Obligations.InstructionComputesItsIntrinsic : Prop :=
  (∀ m ∈ [(Instr.dkhm8, rvDkhm8), (Instr.dkhm16, rvDkhm16), (Instr.dkadd8, rvDkadd8), (Instr.dkadd16, rvDkadd16),
      (Instr.dksub8, rvDksub8), (Instr.dksub16, rvDksub16)],
    ∀ (rd rs1 rs2 : RegNum) (s : State), LegalPair rd → LegalPair rs1 → LegalPair rs2 →
      ∃ t, exec (m.1 rd rs1 rs2) s = .next t ∧ t.readPair rd = m.2 (s.readPair rs1) (s.readPair rs2)) ∧
  (∀ m ∈ [(Instr.dkslra8, rvDkslra8), (Instr.dkslra16, rvDkslra16)],
    ∀ (rd rs1 rs2 : RegNum) (s : State), LegalPair rd → LegalPair rs1 →
      ∃ t, exec (m.1 rd rs1 rs2) s = .next t ∧ t.readPair rd = m.2 (s.readPair rs1) (s.readReg rs2)) ∧
  (∀ m ∈ [(Instr.dkabs8, rvDkabs8), (Instr.dkabs16, rvDkabs16)],
    ∀ (rd rs1 : RegNum) (s : State), LegalPair rd → LegalPair rs1 →
      ∃ t, exec (m.1 rd rs1) s = .next t ∧ t.readPair rd = m.2 (s.readPair rs1)) ∧
  (∀ m ∈ [(Instr.expd80, rvExpd80), (Instr.expd81, rvExpd81), (Instr.expd82, rvExpd82), (Instr.expd83, rvExpd83)],
    ∀ (rd rs1 : RegNum) (s : State), rd ≠ 0 →
      ∃ t, exec (m.1 rd rs1) s = .next t ∧ t.readReg rd = m.2 (s.readReg rs1))

/-! ### The registers, OV and pc -/

/-- 10_state.md section 1 (D2; log 11, the spec's decision): x0 reads as 0 in every state, a write to it changes
nothing, and any other register reads as what was last written to it while the others keep their values. -/
def Obligations.RegisterFileReadsBackWrites : Prop :=
  ∀ (s : State) (r : RegNum) (v : Word),
    s.readReg 0 = 0 ∧ s.writeReg 0 v = s ∧
    (r ≠ 0 → (s.writeReg r v).readReg r = v) ∧
    (∀ r' : RegNum, r' ≠ r → (s.writeReg r v).readReg r' = s.readReg r')

/-- 10_state.md section 1 (D3; log 12, the spec's decision): the pair named by a legal number i is x[i+1] above x[i],
and writing it writes both registers and no other. -/
def Obligations.PairIsEvenLowOddHigh : Prop :=
  ∀ (s : State) (i j : RegNum) (v : Pair), LegalPair i → j.val = i.val + 1 →
    (s.readPair i).extractLsb' 0 32 = s.readReg i ∧
    (s.readPair i).extractLsb' 32 32 = s.readReg j ∧
    (s.writePair i v).readReg i = v.extractLsb' 0 32 ∧
    (s.writePair i v).readReg j = v.extractLsb' 32 32 ∧
    (∀ r : RegNum, r ≠ i → r ≠ j → (s.writePair i v).readReg r = s.readReg r)

/-- 10_state.md section 1, R13 (derived there): every pair instruction is two applications of one function on 32-bit
words, to the low words and to the high words, with OV set if either application saturates. -/
def Obligations.PairInstructionsAreWordwise : Prop :=
  (∀ mk ∈ [Instr.dkhm8, Instr.dkhm16, Instr.dkadd8, Instr.dkadd16, Instr.dksub8, Instr.dksub16],
    ∃ f : Word → Word → Sat 32, ∀ (rd rs1 rs2 : RegNum) (s t : State), exec (mk rd rs1 rs2) s = .next t →
      t.readReg rd = (f (s.readReg rs1) (s.readReg rs2)).value ∧
      t.readReg (pairHigh rd) = (f (s.readReg (pairHigh rs1)) (s.readReg (pairHigh rs2))).value ∧
      t.ov = (s.ov || (f (s.readReg rs1) (s.readReg rs2)).sat ||
        (f (s.readReg (pairHigh rs1)) (s.readReg (pairHigh rs2))).sat)) ∧
  (∀ mk ∈ [Instr.dkslra8, Instr.dkslra16],
    ∃ f : Word → Word → Sat 32, ∀ (rd rs1 rs2 : RegNum) (s t : State), exec (mk rd rs1 rs2) s = .next t →
      t.readReg rd = (f (s.readReg rs1) (s.readReg rs2)).value ∧
      t.readReg (pairHigh rd) = (f (s.readReg (pairHigh rs1)) (s.readReg rs2)).value ∧
      t.ov = (s.ov || (f (s.readReg rs1) (s.readReg rs2)).sat ||
        (f (s.readReg (pairHigh rs1)) (s.readReg rs2)).sat)) ∧
  (∀ mk ∈ [Instr.dkabs8, Instr.dkabs16],
    ∃ f : Word → Sat 32, ∀ (rd rs1 : RegNum) (s t : State), exec (mk rd rs1) s = .next t →
      t.readReg rd = (f (s.readReg rs1)).value ∧
      t.readReg (pairHigh rd) = (f (s.readReg (pairHigh rs1))).value ∧
      t.ov = (s.ov || (f (s.readReg rs1)).sat || (f (s.readReg (pairHigh rs1))).sat))

/-- 10_state.md sections 1 and 4 (R11, R16; D10, log 15): what an instruction leaves in its destination registers, and
whether it sets OV, depends on nothing but the old values of the source registers its operands name; no other
register changes. -/
def Obligations.InstructionReadsOnlyItsSources : Prop :=
  ∀ (i : Instr) (s u s' : State), (∀ r ∈ sourceRegs i, s.readReg r = u.readReg r) → exec i s = .next s' →
    ∃ u', exec i u = .next u' ∧
      (∀ r ∈ destRegs i, u'.readReg r = s'.readReg r) ∧
      (∀ r : RegNum, r ∉ destRegs i → u'.readReg r = u.readReg r) ∧
      (∃ f : Bool, s'.ov = (s.ov || f) ∧ u'.ov = (u.ov || f))

/-- 10_state.md section 3 (R15; D6, log 19): OV is sticky over every step, and the four EXPD8n leave it as it is. -/
def Obligations.OvIsSticky : Prop :=
  (∀ s t : State, step s = .next t → s.ov = true → t.ov = true) ∧
  (∀ (i : Instr) (s t : State), i.type = .dsp → exec i s = .next t → t.ov = s.ov)

/-- 60_exceptions.md section 6 (R76): no instruction reads OV. Two states that differ in OV alone take the same
instruction to states that differ in OV alone, and it sets OV in both or in neither. -/
def Obligations.OvIsNeverRead : Prop :=
  ∀ (i : Instr) (s t : State) (b : Bool), exec i s = .next t →
    ∃ f : Bool, t.ov = (s.ov || f) ∧ exec i { s with ov := b } = .next { t with ov := b || f }

/-- 10_state.md section 2 (R14; D7, log 13): every instruction ends with pc advanced by 4 modulo 2^32, and none reads
pc. -/
def Obligations.EveryInstructionIsSequential : Prop :=
  ∀ (i : Instr) (s t : State), exec i s = .next t →
    t.pc.toNat = (s.pc.toNat + 4) % 2 ^ 32 ∧
    ∀ p : Word, exec i { s with pc := p } = .next { t with pc := p + 4 }

/-! ### Exceptions and refusals -/

/-- R70: no instruction raises a synchronous exception, for any operand values: it answers a next state or, where an
operand is ill-formed, a refusal. -/
def Obligations.NoInstructionFaults : Prop :=
  ∀ (i : Instr) (s : State),
    (i.WellFormed → ∃ t, exec i s = .next t) ∧ (∀ f, exec i s ≠ .fault f)

/-- 60_exceptions.md section 1 (D4, D5, D19; logs 9 and 10, the spec's decisions): the first ill-formed pair operand in
the order Rd, Rs1, Rs2 gives the reason of the refusal, `pairX0` for register 0 and `oddPairRegister` for an odd
number, with the pc. -/
def Obligations.FirstIllFormedOperandGivesReason : Prop :=
  ∀ (i : Instr) (s : State) (before after : List Operand) (o : Operand),
    i.operands = before ++ o :: after → (∀ p ∈ before, LegalOperand p) → o.kind = .pair →
      (o.reg = 0 → exec i s = .refused (.pairX0 o.slot s.pc)) ∧
      (o.reg.val % 2 = 1 → exec i s = .refused (.oddPairRegister o.slot s.pc))

/-! ### The step, the program and a run -/

/-- 70_reset_and_hazards.md section 2 (R82, derived there): the four answers of a step. -/
def Obligations.StepAnswers : Prop :=
  ∀ s : State,
    (s.pc.toNat = s.base.toNat + 4 * s.prog.length → step s = .fault (.ended s)) ∧
    ((∀ k ≤ s.prog.length, s.pc.toNat ≠ s.base.toNat + 4 * k) → step s = .refused (.fetchOutsideProgram s.pc)) ∧
    (∀ k it, s.prog[k]? = some it → s.pc.toNat = s.base.toNat + 4 * k →
      (it.instr? = none → step s = .refused (.notInScope s.pc)) ∧
      (∀ i, it.instr? = some i → step s = exec i s))

/-- 20_memory.md section 2 and 30_encoding.md section 5 (R22, R36): where the four bytes at pc, in the program's
order, decode to an instruction, the step is that instruction's execution, with nothing added around it. -/
def Obligations.StepRunsDecodedWord : Prop :=
  ∀ (s : State) (k : Nat) (w : Word) (i : Instr), s.prog[k]? = some (.word w) →
    s.pc.toNat = s.base.toNat + 4 * k → decodeBytes (bytesOfWord w) = .ok (i, []) → step s = exec i s

/-- 20_memory.md sections 2 and 6 (R22, R27; log 1): no step changes the program or its base. -/
def Obligations.ProgramIsImmutable : Prop :=
  ∀ s t : State, step s = .next t → t.prog = s.prog ∧ t.base = s.base

/-- 10_state.md section 2 and 70_reset_and_hazards.md section 1 (R14, R80; D7, D12): every step keeps the launch
premises, so that pc stays the address of an item or the end address, below 2^32 and a multiple of 4. -/
def Obligations.StepKeepsOnCourse : Prop :=
  ∀ s t : State, s.OnCourse → step s = .next t → t.OnCourse ∧ t.pc.toNat % 4 = 0

/-- The state after reset, whose values are the model's own (logs 3, 4, 5), meets the launch premises. -/
def Obligations.ResetIsOnCourse : Prop := State.reset.OnCourse

/-- The state after reset. Every value is a DESIGN CHOICE of the model (logs 3, 4, 5): the spec gives no reset value
(R18). With no program loaded the run has ended. -/
def Obligations.ResetState : Prop :=
  (∀ r : RegNum, State.reset.readReg r = 0) ∧ State.reset.pc = 0 ∧ State.reset.ov = false ∧
    step State.reset = .fault (.ended State.reset)

/-- 70_reset_and_hazards.md section 1 and 20_memory.md section 4 (R80, R24; D11, D12; log 8 for the name programTooLong
and the check of the items): the answers of a launch. -/
def Obligations.LaunchAnswers : Prop :=
  ∀ (regs : Vector Word 31) (pc : Word) (ov : Bool) (prog : List Item),
    (pc.toNat % 4 ≠ 0 → launch regs pc ov prog = .refused (.misalignedPc pc)) ∧
    (pc.toNat % 4 = 0 → 2 ^ 32 ≤ pc.toNat + 4 * prog.length →
      launch regs pc ov prog = .refused (.programTooLong pc)) ∧
    (pc.toNat % 4 = 0 → pc.toNat + 4 * prog.length < 2 ^ 32 →
      ((∀ it ∈ prog, ∃ i, it.instr? = some i) →
        ∃ s, launch regs pc ov prog = .next s ∧ s.OnCourse ∧
          s.regs = regs ∧ s.pc = pc ∧ s.ov = ov ∧ s.base = pc ∧ s.prog = prog) ∧
      (∀ before it after, prog = before ++ it :: after → (∀ x ∈ before, ∃ i, x.instr? = some i) →
        it.instr? = none →
        launch regs pc ov prog = .refused (.notInScope (pc + BitVec.ofNat 32 (4 * before.length)))))

/-- 70_reset_and_hazards.md section 3 (R83; D17): from any launch of a program of n well-formed instructions, whatever
the registers and OV, the run ends after exactly n steps, with pc just past the last instruction. -/
def Obligations.RunEndsAfterProgramLength : Prop :=
  ∀ (regs : Vector Word 31) (pc : Word) (ov : Bool) (prog : List Item) (s : State),
    launch regs pc ov prog = .next s → s.ProgramWellFormed →
      ∃ t, EndsAfter prog.length s t ∧ t.pc.toNat = pc.toNat + 4 * prog.length

/-- 70_reset_and_hazards.md sections 2 and 3 (R82, R83): from any state on course whose program is well-formed, no
number of steps meets a refusal. -/
def Obligations.WellFormedProgramIsNeverRefused : Prop :=
  ∀ s : State, s.OnCourse → s.ProgramWellFormed → NeverRefused s

/-! ### The encoding -/

/-- 30_encoding.md section 5 (R36 (a); log 2): every well-formed instruction has a word, and its word, and the word's
bytes, decode to it. -/
def Obligations.EncodedInstructionDecodes : Prop :=
  ∀ i : Instr, i.WellFormed →
    ∃ w, encode i = some w ∧ decode w = some i ∧
      ∀ rest, decodeBytes (bytesOfWord w ++ rest) = .ok (i, rest)

/-- 30_encoding.md section 5 (R36 (b); log 2): DEC answers an instruction only for the word ENC gives a well-formed
instruction, so every other word is invalid. -/
def Obligations.DecodedWordIsAnEncoding : Prop :=
  ∀ (w : Word) (i : Instr), decode w = some i → i.WellFormed ∧ encode i = some w

/-- 30_encoding.md section 5 (R36; log 2): the model's parameter assumes nothing more than R36. Every ENC and DEC that
meet R36 (a) and (b) are the model's, for some value of the open permutation. -/
def Obligations.EveryLawfulEncodingIsAdmitted : Prop :=
  ∀ (enc : Instr → Word) (dec : Word → Option Instr),
    (∀ i, i.WellFormed → dec (enc i) = some i) →
    (∀ w i, dec w = some i → i.WellFormed ∧ enc i = w) →
    ∃ p : Equiv.Perm Word,
      (∀ i, i.WellFormed → encodeWith p i = some (enc i)) ∧ (∀ w, decodeWith p w = dec w)

/-- 30_encoding.md section 5 (R36; logs 2 and 4): a well-formed instruction's word, placed by the host's loader, is
read by the table decoder as that instruction, and the very next step runs it, with registers, OV and pc as they
were. -/
def Obligations.LoadedWordRunsNext : Prop :=
  ∀ (i : Instr) (w : Word) (s : State), encode i = some w →
    decodeTableWord 32 w.toNat = some i ∧
    step (s.withFetchWord 32 w.toNat) = exec i (s.withFetchWord 32 w.toNat) ∧
    (s.withFetchWord 32 w.toNat).regs = s.regs ∧ (s.withFetchWord 32 w.toNat).ov = s.ov ∧
    (s.withFetchWord 32 w.toNat).pc = s.pc

/-- 95_test_vectors.md section 3 writes each encoding as the symbolic word ENC(...), since the spec has no bits
(log 2): one such word of each family decodes to its instruction. -/
def Obligations.SymbolicWordsDecode : Prop :=
  (encode (.dkhm16 6 6 8)).bind decode = some (.dkhm16 6 6 8) ∧
  (encode (.dkabs16 6 6)).bind decode = some (.dkabs16 6 6) ∧
  (encode (.dkslra8 10 12 11)).bind decode = some (.dkslra8 10 12 11) ∧
  (encode (.dksub8 14 12 10)).bind decode = some (.dksub8 14 12 10) ∧
  (encode (.expd83 0 14)).bind decode = some (.expd83 0 14)
end

