-- ==== Sys2Proof/Laws/Decode.lean ====
section
/-! SUPPORT. Laws/Decode: the numbering of terms is injective, and the bytes of a word give the word back. -/

namespace Sys2Proof

section Fields
variable (k : Nat) (rd rs1 rs2 : RegNum)

theorem packNumber_head : packNumber k rd rs1 rs2 / 32768 = k := by
  unfold packNumber; omega

theorem packNumber_rd : regField (packNumber k rd rs1 rs2) 1024 = rd := by
  apply Fin.ext; simp only [regField, packNumber]; omega

theorem packNumber_rs1 : regField (packNumber k rd rs1 rs2) 32 = rs1 := by
  apply Fin.ext; simp only [regField, packNumber]; omega

theorem packNumber_rs2 : regField (packNumber k rd rs1 rs2) 1 = rs2 := by
  apply Fin.ext; simp only [regField, packNumber]; omega

theorem packNumber_lt (h : k < 14) : packNumber k rd rs1 rs2 < 2 ^ 32 := by
  unfold packNumber; omega

end Fields

/-- The number of a term gives the term back, well-formed or not. -/
theorem ofNumber_number (i : Instr) : Instr.ofNumber i.number = some i := by
  cases i <;>
    simp only [Instr.ofNumber, Instr.number, packNumber_head, packNumber_rd, packNumber_rs1, packNumber_rs2,
      twoOperands, if_true]

theorem number_lt (i : Instr) : i.number < 2 ^ 32 := by
  cases i <;> exact packNumber_lt _ _ _ _ (by omega)

theorem number_injective : Function.Injective Instr.number := fun i j h =>
  Option.some.inj (by rw [← ofNumber_number i, ← ofNumber_number j, h])

/-- A word's four bytes, put together again, are the word. -/
theorem wordOfBytes_extract (w : Word) :
    wordOfBytes (w.extractLsb' 0 8) (w.extractLsb' 8 8) (w.extractLsb' 16 8) (w.extractLsb' 24 8) = w := by
  have h1 : w.extractLsb' 24 8 ++ w.extractLsb' 16 8 = w.extractLsb' 16 16 :=
    BitVec.extractLsb'_append_extractLsb'_eq_extractLsb' rfl
  have h2 : w.extractLsb' 16 16 ++ w.extractLsb' 8 8 = w.extractLsb' 8 24 :=
    BitVec.extractLsb'_append_extractLsb'_eq_extractLsb' rfl
  have h3 : w.extractLsb' 8 24 ++ w.extractLsb' 0 8 = w.extractLsb' 0 32 :=
    BitVec.extractLsb'_append_extractLsb'_eq_extractLsb' rfl
  rw [wordOfBytes, h1, h2]
  exact h3.trans BitVec.extractLsb'_eq_self

/-- Decoding the bytes of a word is decoding the word. -/
theorem decodeBytes_bytesOfWord (w : Word) (rest : List Byte) :
    decodeBytes (bytesOfWord w ++ rest) =
      match decode w with
      | some i => .ok (i, rest)
      | none => .error (.notInScope w) := by
  cases h : decode w <;>
    simp only [bytesOfWord, List.cons_append, List.nil_append, decodeBytes, wordOfBytes_extract, h]

end Sys2Proof
end

