-- ==== Sys2Proof/Laws/Operands.lean ====
section
/-! SUPPORT. Laws/Operands: the element views of a concatenation, and what packing the lanes gives. -/

namespace Sys2Proof.Machine

section Append
variable {w : Nat} (k : Nat)

theorem byteOf_append_zero (x : BitVec w) (b : Byte) : byteOf (x ++ b) 0 = b := by
  rw [byteOf, BitVec.extractLsb'_append_eq_of_add_le (by omega)]
  exact BitVec.extractLsb'_eq_self

theorem byteOf_append_succ (x : BitVec w) (b : Byte) : byteOf (x ++ b) (k + 1) = byteOf x k := by
  rw [byteOf, byteOf, BitVec.extractLsb'_append_eq_of_le (by omega)]
  congr 1

theorem byteOf_self (b : Byte) : byteOf b 0 = b := BitVec.extractLsb'_eq_self

theorem halfOf_append_zero (x : BitVec w) (b : Half) : halfOf (x ++ b) 0 = b := by
  rw [halfOf, BitVec.extractLsb'_append_eq_of_add_le (by omega)]
  exact BitVec.extractLsb'_eq_self

theorem halfOf_append_succ (x : BitVec w) (b : Half) : halfOf (x ++ b) (k + 1) = halfOf x k := by
  rw [halfOf, halfOf, BitVec.extractLsb'_append_eq_of_le (by omega)]
  congr 1

theorem halfOf_self (b : Half) : halfOf b 0 = b := BitVec.extractLsb'_eq_self

end Append

section Lanes
variable {k : Nat}

/-- Byte k of the packed value is lane k's result. -/
theorem byteOf_packBytes (r : Nat → Sat 8) (hk : k < 8) : byteOf (packBytes r).value k = (r k).value := by
  simp only [packBytes]
  interval_cases k <;> simp only [byteOf_append_zero, byteOf_append_succ, byteOf_self]

/-- Halfword k of the packed value is lane k's result. -/
theorem halfOf_packHalves (r : Nat → Sat 16) (hk : k < 4) : halfOf (packHalves r).value k = (r k).value := by
  simp only [packHalves]
  interval_cases k <;> simp only [halfOf_append_zero, halfOf_append_succ, halfOf_self]

/-- The packed saturation bit is set exactly when some lane's is. -/
theorem packBytes_sat (r : Nat → Sat 8) : (packBytes r).sat = true ↔ ∃ k < 8, (r k).sat = true := by
  simp only [packBytes, Bool.or_eq_true]
  constructor
  · rintro (((((((h | h) | h) | h) | h) | h) | h) | h)
    exacts [⟨0, by omega, h⟩, ⟨1, by omega, h⟩, ⟨2, by omega, h⟩, ⟨3, by omega, h⟩, ⟨4, by omega, h⟩,
      ⟨5, by omega, h⟩, ⟨6, by omega, h⟩, ⟨7, by omega, h⟩]
  · rintro ⟨k, hk, h⟩
    interval_cases k <;> simp [h]

/-- The packed saturation bit is set exactly when some lane's is. -/
theorem packHalves_sat (r : Nat → Sat 16) : (packHalves r).sat = true ↔ ∃ k < 4, (r k).sat = true := by
  simp only [packHalves, Bool.or_eq_true]
  constructor
  · rintro (((h | h) | h) | h)
    exacts [⟨0, by omega, h⟩, ⟨1, by omega, h⟩, ⟨2, by omega, h⟩, ⟨3, by omega, h⟩]
  · rintro ⟨k, hk, h⟩
    interval_cases k <;> simp [h]

end Lanes

end Sys2Proof.Machine
end

