-- ==== Sys2Proof/Laws/State.lean ====
section
/-! SUPPORT. Laws/State: what each update does to each field of State, and to a register read. -/

namespace Sys2Proof.Machine

@[simp] theorem reset_regs : State.reset.regs = Vector.replicate 31 0 := rfl
@[simp] theorem reset_pc : State.reset.pc = 0 := rfl
@[simp] theorem reset_ov : State.reset.ov = false := rfl
@[simp] theorem reset_base : State.reset.base = 0 := rfl
@[simp] theorem reset_prog : State.reset.prog = [] := rfl

section Updates
variable (s : State) (r : RegNum) (v : Word) (p : Pair) (f : Bool) (w : Word)

@[simp] theorem raiseOv_regs : (s.raiseOv f).regs = s.regs := rfl
@[simp] theorem raiseOv_pc : (s.raiseOv f).pc = s.pc := rfl
@[simp] theorem raiseOv_ov : (s.raiseOv f).ov = (s.ov || f) := rfl
@[simp] theorem raiseOv_base : (s.raiseOv f).base = s.base := rfl
@[simp] theorem raiseOv_prog : (s.raiseOv f).prog = s.prog := rfl

@[simp] theorem advancePc_regs : s.advancePc.regs = s.regs := rfl
@[simp] theorem advancePc_pc : s.advancePc.pc = s.pc + 4 := rfl
@[simp] theorem advancePc_ov : s.advancePc.ov = s.ov := rfl
@[simp] theorem advancePc_base : s.advancePc.base = s.base := rfl
@[simp] theorem advancePc_prog : s.advancePc.prog = s.prog := rfl

@[simp] theorem loadWordAtPc_regs : (s.loadWordAtPc w).regs = s.regs := rfl
@[simp] theorem loadWordAtPc_pc : (s.loadWordAtPc w).pc = s.pc := rfl
@[simp] theorem loadWordAtPc_ov : (s.loadWordAtPc w).ov = s.ov := rfl
@[simp] theorem loadWordAtPc_base : (s.loadWordAtPc w).base = s.pc := rfl
@[simp] theorem loadWordAtPc_prog : (s.loadWordAtPc w).prog = [.word w] := rfl

theorem writeReg_of_zero (h : r.val = 0) : s.writeReg r v = s := by simp [State.writeReg, h]

theorem writeReg_of_ne_zero (h : r.val ≠ 0) :
    s.writeReg r v = { s with regs := s.regs.set (r.val - 1) v (by omega) } := by
  simp [State.writeReg, h]

@[simp] theorem writeReg_pc : (s.writeReg r v).pc = s.pc := by unfold State.writeReg; split <;> rfl
@[simp] theorem writeReg_ov : (s.writeReg r v).ov = s.ov := by unfold State.writeReg; split <;> rfl
@[simp] theorem writeReg_base : (s.writeReg r v).base = s.base := by unfold State.writeReg; split <;> rfl
@[simp] theorem writeReg_prog : (s.writeReg r v).prog = s.prog := by unfold State.writeReg; split <;> rfl

@[simp] theorem writePair_pc : (s.writePair r p).pc = s.pc := by simp [State.writePair]
@[simp] theorem writePair_ov : (s.writePair r p).ov = s.ov := by simp [State.writePair]
@[simp] theorem writePair_base : (s.writePair r p).base = s.base := by simp [State.writePair]
@[simp] theorem writePair_prog : (s.writePair r p).prog = s.prog := by simp [State.writePair]

end Updates

section Launch
variable (regs : Vector Word 31) (pc : Word) (ov : Bool) (prog : List Item)

@[simp] theorem launchState_regs : (launchState regs pc ov prog).regs = regs := rfl
@[simp] theorem launchState_pc : (launchState regs pc ov prog).pc = pc := rfl
@[simp] theorem launchState_ov : (launchState regs pc ov prog).ov = ov := rfl
@[simp] theorem launchState_base : (launchState regs pc ov prog).base = pc := rfl
@[simp] theorem launchState_prog : (launchState regs pc ov prog).prog = prog := rfl

end Launch

section Reads
variable (s : State) (r r' : RegNum) (v : Word) (f : Bool)

theorem readReg_of_ne_zero (h : r.val ≠ 0) : s.readReg r = s.regs[r.val - 1]'(by omega) := by
  simp [State.readReg, h]

/-- A register read looks at nothing but the register file. -/
theorem readReg_congr {s t : State} (h : s.regs = t.regs) : s.readReg r = t.readReg r := by
  simp [State.readReg, h]

@[simp] theorem readReg_raiseOv : (s.raiseOv f).readReg r = s.readReg r := readReg_congr r rfl
@[simp] theorem readReg_advancePc : s.advancePc.readReg r = s.readReg r := readReg_congr r rfl

theorem readReg_writeReg_same (h : r.val ≠ 0) : (s.writeReg r v).readReg r = v := by
  simp [State.writeReg, State.readReg, h]

theorem readReg_writeReg_other (h : r' ≠ r) : (s.writeReg r v).readReg r' = s.readReg r' := by
  have hv : r'.val ≠ r.val := fun e => h (Fin.ext e)
  by_cases h0 : r.val = 0
  · rw [writeReg_of_zero s r v h0]
  · rw [writeReg_of_ne_zero s r v h0]
    by_cases h0' : r'.val = 0
    · simp [State.readReg, h0']
    · simp only [State.readReg, h0', dite_false]
      exact Vector.getElem_set_ne _ _ (by omega)

end Reads

end Sys2Proof.Machine
end

