-- ==== Sys2Proof/Laws/Ops.lean ====
section
/-! SUPPORT. Laws/Ops: what each shared operation over the state does, said once. -/

namespace Sys2Proof.Machine

theorem pairHigh_val {r : RegNum} (h : LegalPair r) : (pairHigh r).val = r.val + 1 := by
  obtain ⟨h1, h2⟩ := h
  have := r.isLt
  simp only [pairHigh, Fin.val_add]
  have : ((1 : Fin 32) : Nat) = 1 := rfl
  omega

theorem pairHigh_ne {r : RegNum} (h : LegalPair r) : pairHigh r ≠ r := by
  intro e
  have := pairHigh_val h
  rw [e] at this
  omega

section Frames
variable (s : State) (rd : RegNum) (r : RegNum) (p : Pair) (res : Sat 64) (v : Word)

theorem readReg_writePair_low (h : LegalPair rd) : (s.writePair rd p).readReg rd = p.extractLsb' 0 32 := by
  rw [State.writePair, readReg_writeReg_other _ _ _ _ (Ne.symm (pairHigh_ne h)),
    readReg_writeReg_same _ _ _ (by have := h.2; omega)]

theorem readReg_writePair_high (h : LegalPair rd) :
    (s.writePair rd p).readReg (pairHigh rd) = p.extractLsb' 32 32 := by
  rw [State.writePair, readReg_writeReg_same _ _ _ (by have := pairHigh_val h; omega)]

theorem readReg_writePair_other (h : r ≠ rd) (h' : r ≠ pairHigh rd) :
    (s.writePair rd p).readReg r = s.readReg r := by
  rw [State.writePair, readReg_writeReg_other _ _ _ _ h', readReg_writeReg_other _ _ _ _ h]

theorem readReg_finishPair : (s.finishPair rd res).readReg r = (s.writePair rd res.value).readReg r := by
  simp [State.finishPair]

theorem readReg_finishReg : (s.finishReg rd v).readReg r = (s.writeReg rd v).readReg r := by
  simp [State.finishReg]

@[simp] theorem finishPair_pc : (s.finishPair rd res).pc = s.pc + 4 := by simp [State.finishPair]
@[simp] theorem finishPair_ov : (s.finishPair rd res).ov = (s.ov || res.sat) := by simp [State.finishPair]
@[simp] theorem finishPair_base : (s.finishPair rd res).base = s.base := by simp [State.finishPair]
@[simp] theorem finishPair_prog : (s.finishPair rd res).prog = s.prog := by simp [State.finishPair]

@[simp] theorem finishReg_pc : (s.finishReg rd v).pc = s.pc + 4 := by simp [State.finishReg]
@[simp] theorem finishReg_ov : (s.finishReg rd v).ov = s.ov := by simp [State.finishReg]
@[simp] theorem finishReg_base : (s.finishReg rd v).base = s.base := by simp [State.finishReg]
@[simp] theorem finishReg_prog : (s.finishReg rd v).prog = s.prog := by simp [State.finishReg]

/-- A pair instruction leaves the pair it wrote in Rd. -/
theorem readPair_finishPair (h : LegalPair rd) : (s.finishPair rd res).readPair rd = res.value := by
  rw [State.readPair, readReg_finishPair, readReg_finishPair, readReg_writePair_low _ _ _ h,
    readReg_writePair_high _ _ _ h]
  exact (BitVec.extractLsb'_append_extractLsb'_eq_extractLsb' (x := res.value) rfl).trans BitVec.extractLsb'_eq_self

/-- A pair instruction changes no register outside the Rd pair, and not the program. -/
theorem finishPair_keeps : KeepsAllButPair s (s.finishPair rd res) rd where
  regs _ h h' := by rw [readReg_finishPair, readReg_writePair_other _ _ _ _ h h']
  base := finishPair_base s rd res
  prog := finishPair_prog s rd res

/-- An EXPD8n changes no register but Rd, and not the program. -/
theorem finishReg_keeps : KeepsAllButReg s (s.finishReg rd v) rd where
  regs _ h := by rw [readReg_finishReg, readReg_writeReg_other _ _ _ _ h]
  base := finishReg_base s rd v
  prog := finishReg_prog s rd v

end Frames

section Check
variable {i : Instr} {s t u : State}

/-- The operand check lets exactly the well-formed instructions through. -/
theorem whenWellFormed_eq_next : whenWellFormed i s t = .next u ↔ i.WellFormed ∧ u = t := by
  unfold whenWellFormed Instr.WellFormed
  cases i.illFormed? <;> simp [eq_comm]

theorem whenWellFormed_of_wellFormed (h : i.WellFormed) : whenWellFormed i s t = .next t :=
  whenWellFormed_eq_next.2 ⟨h, rfl⟩

theorem whenWellFormed_of_illFormed {r : IllFormed} (h : i.illFormed? = some r) :
    whenWellFormed i s t = .refused (refusalOf r s.pc) := by
  simp [whenWellFormed, h]

theorem whenWellFormed_ne_fault (f : Fault) : whenWellFormed i s t ≠ .fault f := by
  unfold whenWellFormed
  split <;> simp

end Check

end Sys2Proof.Machine
end

