-- ==== Sys2Proof/Laws/Effects.lean ====
section
/-! SUPPORT. Laws/Effects: what the two shared endings of an instruction leave, in the terms of Safety. -/

namespace Sys2Proof.Machine

variable {s : State} {rd : RegNum}

/-- An instruction that packs eight byte results has the effect that its lanes' values and saturation bits say. -/
theorem finishPair_packBytes (h : LegalPair rd) {r : Nat → Sat 8} {value : Nat → Byte} {sat : Nat → Prop}
    (hv : ∀ k, (r k).value = value k) (hs : ∀ k, (r k).sat = true ↔ sat k) :
    BytesEffect s (s.finishPair rd (packBytes r)) rd value sat where
  bytes k hk := by rw [readPair_finishPair _ _ _ h, byteOf_packBytes _ hk, hv]
  ov := by simp only [finishPair_ov, Bool.or_eq_true, packBytes_sat, hs]
  pc := finishPair_pc s rd _
  keeps := finishPair_keeps s rd _

/-- An instruction that packs four halfword results has the effect that its lanes' values and saturation bits say. -/
theorem finishPair_packHalves (h : LegalPair rd) {r : Nat → Sat 16} {value : Nat → Half} {sat : Nat → Prop}
    (hv : ∀ k, (r k).value = value k) (hs : ∀ k, (r k).sat = true ↔ sat k) :
    HalvesEffect s (s.finishPair rd (packHalves r)) rd value sat where
  halves k hk := by rw [readPair_finishPair _ _ _ h, halfOf_packHalves _ hk, hv]
  ov := by simp only [finishPair_ov, Bool.or_eq_true, packHalves_sat, hs]
  pc := finishPair_pc s rd _
  keeps := finishPair_keeps s rd _

/-- An instruction that writes one register reads it back there, unless it is x0. -/
theorem readReg_finishReg_same (h : rd ≠ 0) (v : Word) : (s.finishReg rd v).readReg rd = v := by
  rw [readReg_finishReg, readReg_writeReg_same]
  exact fun e => h (Fin.ext e)

/-- Writing x0 leaves the register file as it is. -/
theorem finishReg_x0_regs (v : Word) : (s.finishReg 0 v).regs = s.regs := by
  simp [State.finishReg, writeReg_of_zero]

/-- An ill-formed instruction is refused. -/
theorem whenWellFormed_refused {i : Instr} {t : State} (h : ¬ i.WellFormed) : ∃ r, whenWellFormed i s t = .refused r :=
  match hi : i.illFormed? with
  | none => absurd hi h
  | some _ => ⟨_, whenWellFormed_of_illFormed hi⟩

end Sys2Proof.Machine
end

