-- ==== Sys2Proof/Laws/Elements.lean ====
section
/-! SUPPORT. Laws/Elements: what the element functions answer, as signed integers. -/

namespace Sys2Proof.Machine

section Range
variable {n : Nat}

theorem toInt_range (a : BitVec n) : -2 ^ (n - 1) ≤ a.toInt ∧ a.toInt ≤ 2 ^ (n - 1) - 1 := by
  have := @BitVec.le_toInt n a
  have := @BitVec.toInt_le n a
  omega

/-- A signed integer in range survives being written in `n` bits. -/
theorem toInt_ofInt (hn : 0 < n) {x : Int} (h1 : -2 ^ (n - 1) ≤ x) (h2 : x ≤ 2 ^ (n - 1) - 1) :
    (BitVec.ofInt n x).toInt = x :=
  BitVec.toInt_ofInt_eq_self hn h1 (by omega)

/-- The most negative element is the one that represents -2^(n-1). -/
theorem eq_least_iff (hn : 0 < n) (a : BitVec n) : a = BitVec.ofInt n (-2 ^ (n - 1)) ↔ a.toInt = -2 ^ (n - 1) := by
  have : (0 : Int) < 2 ^ (n - 1) := by positivity
  rw [← BitVec.toInt_inj, toInt_ofInt hn (by omega) (by omega)]

end Range

section Saturate
variable {n : Nat} (x : Int)

theorem saturate_toInt (hn : 0 < n) :
    (saturate n x).value.toInt = max (-2 ^ (n - 1)) (min (2 ^ (n - 1) - 1) x) := by
  have : (0 : Int) < 2 ^ (n - 1) := by positivity
  simp only [saturate]
  rw [toInt_ofInt hn] <;> omega

theorem saturate_sat : (saturate n x).sat = true ↔ x > 2 ^ (n - 1) - 1 ∨ x < -2 ^ (n - 1) := by
  simp only [saturate, outOfRange, Bool.or_eq_true, decide_eq_true_eq]

/-- An integer in range is not changed by saturation. -/
theorem saturate_of_range {x : Int} (h1 : -2 ^ (n - 1) ≤ x) (h2 : x ≤ 2 ^ (n - 1) - 1) :
    saturate n x = ⟨BitVec.ofInt n x, false⟩ := by
  have hs : outOfRange n x = false := by
    simp only [outOfRange, Bool.or_eq_false_iff, decide_eq_false_iff_not]
    omega
  rw [saturate, hs, show min (max x (-2 ^ (n - 1))) (2 ^ (n - 1) - 1) = x by omega]

end Saturate

section Elements
variable {n : Nat} {a b : BitVec n}

theorem khm_of_least (h : a = BitVec.ofInt n (-2 ^ (n - 1)) ∧ b = BitVec.ofInt n (-2 ^ (n - 1))) :
    khm n a b = ⟨BitVec.ofInt n (2 ^ (n - 1) - 1), true⟩ := by
  rw [khm, if_pos h]

theorem khm_of_other (h : ¬(a = BitVec.ofInt n (-2 ^ (n - 1)) ∧ b = BitVec.ofInt n (-2 ^ (n - 1)))) :
    khm n a b = ⟨BitVec.ofInt n (a.toInt * b.toInt / 2 ^ (n - 1)), false⟩ := by
  rw [khm, if_neg h]

theorem kabs_of_least (h : a = BitVec.ofInt n (-2 ^ (n - 1))) :
    kabs n a = ⟨BitVec.ofInt n (2 ^ (n - 1) - 1), true⟩ := by
  rw [kabs, if_pos h]

theorem kabs_of_negative (h : a ≠ BitVec.ofInt n (-2 ^ (n - 1))) (hm : a.msb = true) :
    kabs n a = ⟨BitVec.ofInt n (-a.toInt), false⟩ := by
  rw [kabs, if_neg h, if_pos hm]

theorem kslra_of_negative {l : Nat} {c : BitVec l} (h : c.msb = true) :
    kslra n a c = ⟨(a.extractLsb' (rightAmount n c) (n - rightAmount n c)).signExtend n, false⟩ := by
  rw [kslra, if_pos h]

theorem kslra_of_nonneg {l : Nat} {c : BitVec l} (h : c.msb = false) :
    kslra n a c = saturate n (a.toInt * 2 ^ (c.extractLsb' 0 (l - 1)).toNat) := by
  rw [kslra, if_neg (by simp [h])]

end Elements

end Sys2Proof.Machine
end

