-- ==== Sys2Proof/Laws/WellFormed.lean ====
section
/-! SUPPORT. Laws/WellFormed: the operand check of each operand format, as R32 words it. -/

namespace Sys2Proof.Machine

theorem illFormed_single (sl : Slot) (r : RegNum) : Operand.illFormed? ⟨sl, .single, r⟩ = none := rfl

theorem illFormed_pair_eq_none (sl : Slot) (r : RegNum) :
    Operand.illFormed? ⟨sl, .pair, r⟩ = none ↔ LegalPair r := by
  simp only [Operand.illFormed?, LegalPair]
  split
  · simp; omega
  · split
    · simp; omega
    · simp; omega

/-- An operand passes the check exactly when it is legal by R32. -/
theorem illFormed_eq_none (o : Operand) : o.illFormed? = none ↔ LegalOperand o := by
  obtain ⟨sl, k, r⟩ := o
  cases k
  · simp [illFormed_pair_eq_none, LegalOperand]
  · simp [illFormed_single, LegalOperand]

/-- An instruction is well-formed exactly when each of its operands is legal. -/
theorem wellFormed_iff (i : Instr) : i.WellFormed ↔ ∀ o ∈ i.operands, LegalOperand o := by
  simp only [Instr.WellFormed, Instr.illFormed?, List.findSome?_eq_none_iff, illFormed_eq_none]

end Sys2Proof.Machine
end

