-- ==== Sys2Proof/Laws/PerInstr.lean ====
section
/-! SUPPORT. Laws/PerInstr: statements about every instruction as syntax, one lemma per constructor. `Term`: the
mnemonic and the register numbers name the instruction (R30, R31). `Operands`: which operands must be legal pairs
(R11, R32). -/

namespace Sys2Proof.Laws

open Sys2Proof.Machine

/-- The assembly-level term of an instruction stands for that instruction. -/
def Term.Statement (i : Instr) : Prop := (Item.ofInstr i).instr? = some i

theorem Term.dkhm8 (rd rs1 rs2 : RegNum) : Term.Statement (.dkhm8 rd rs1 rs2) := rfl
theorem Term.dkhm16 (rd rs1 rs2 : RegNum) : Term.Statement (.dkhm16 rd rs1 rs2) := rfl
theorem Term.dkabs8 (rd rs1 : RegNum) : Term.Statement (.dkabs8 rd rs1) := rfl
theorem Term.dkabs16 (rd rs1 : RegNum) : Term.Statement (.dkabs16 rd rs1) := rfl
theorem Term.dkslra8 (rd rs1 rs2 : RegNum) : Term.Statement (.dkslra8 rd rs1 rs2) := rfl
theorem Term.dkslra16 (rd rs1 rs2 : RegNum) : Term.Statement (.dkslra16 rd rs1 rs2) := rfl
theorem Term.dkadd8 (rd rs1 rs2 : RegNum) : Term.Statement (.dkadd8 rd rs1 rs2) := rfl
theorem Term.dkadd16 (rd rs1 rs2 : RegNum) : Term.Statement (.dkadd16 rd rs1 rs2) := rfl
theorem Term.dksub8 (rd rs1 rs2 : RegNum) : Term.Statement (.dksub8 rd rs1 rs2) := rfl
theorem Term.dksub16 (rd rs1 rs2 : RegNum) : Term.Statement (.dksub16 rd rs1 rs2) := rfl
theorem Term.expd80 (rd rs1 : RegNum) : Term.Statement (.expd80 rd rs1) := rfl
theorem Term.expd81 (rd rs1 : RegNum) : Term.Statement (.expd81 rd rs1) := rfl
theorem Term.expd82 (rd rs1 : RegNum) : Term.Statement (.expd82 rd rs1) := rfl
theorem Term.expd83 (rd rs1 : RegNum) : Term.Statement (.expd83 rd rs1) := rfl

/-- The operands R11 lists as pairs, for each instruction. -/
def pairOperands : Instr → List RegNum
  | .dkhm8 rd rs1 rs2 | .dkhm16 rd rs1 rs2 => [rd, rs1, rs2]
  | .dkabs8 rd rs1 | .dkabs16 rd rs1 => [rd, rs1]
  | .dkslra8 rd rs1 _ | .dkslra16 rd rs1 _ => [rd, rs1]
  | .dkadd8 rd rs1 rs2 | .dkadd16 rd rs1 rs2 | .dksub8 rd rs1 rs2 | .dksub16 rd rs1 rs2 => [rd, rs1, rs2]
  | .expd80 _ _ | .expd81 _ _ | .expd82 _ _ | .expd83 _ _ => []

/-- An instruction is well-formed exactly when the operands that R11 lists as pairs are even and in 2 to 30. -/
def Operands.Statement (i : Instr) : Prop := i.WellFormed ↔ ∀ r ∈ pairOperands i, LegalPair r

theorem Operands.dkhm8 (rd rs1 rs2 : RegNum) : Operands.Statement (.dkhm8 rd rs1 rs2) := by
  simp [Statement, wellFormed_iff, pairOperands, Instr.operands, Instr.format, Instr.regs, Format.slots]
theorem Operands.dkhm16 (rd rs1 rs2 : RegNum) : Operands.Statement (.dkhm16 rd rs1 rs2) :=
  Operands.dkhm8 rd rs1 rs2
theorem Operands.dkadd8 (rd rs1 rs2 : RegNum) : Operands.Statement (.dkadd8 rd rs1 rs2) :=
  Operands.dkhm8 rd rs1 rs2
theorem Operands.dkadd16 (rd rs1 rs2 : RegNum) : Operands.Statement (.dkadd16 rd rs1 rs2) :=
  Operands.dkhm8 rd rs1 rs2
theorem Operands.dksub8 (rd rs1 rs2 : RegNum) : Operands.Statement (.dksub8 rd rs1 rs2) :=
  Operands.dkhm8 rd rs1 rs2
theorem Operands.dksub16 (rd rs1 rs2 : RegNum) : Operands.Statement (.dksub16 rd rs1 rs2) :=
  Operands.dkhm8 rd rs1 rs2
theorem Operands.dkslra8 (rd rs1 rs2 : RegNum) : Operands.Statement (.dkslra8 rd rs1 rs2) := by
  simp [Statement, wellFormed_iff, pairOperands, Instr.operands, Instr.format, Instr.regs, Format.slots]
theorem Operands.dkslra16 (rd rs1 rs2 : RegNum) : Operands.Statement (.dkslra16 rd rs1 rs2) :=
  Operands.dkslra8 rd rs1 rs2
theorem Operands.dkabs8 (rd rs1 : RegNum) : Operands.Statement (.dkabs8 rd rs1) := by
  simp [Statement, wellFormed_iff, pairOperands, Instr.operands, Instr.format, Instr.regs, Format.slots]
theorem Operands.dkabs16 (rd rs1 : RegNum) : Operands.Statement (.dkabs16 rd rs1) :=
  Operands.dkabs8 rd rs1
theorem Operands.expd80 (rd rs1 : RegNum) : Operands.Statement (.expd80 rd rs1) := by
  simp [Statement, wellFormed_iff, pairOperands, Instr.operands, Instr.format, Instr.regs, Format.slots]
theorem Operands.expd81 (rd rs1 : RegNum) : Operands.Statement (.expd81 rd rs1) :=
  Operands.expd80 rd rs1
theorem Operands.expd82 (rd rs1 : RegNum) : Operands.Statement (.expd82 rd rs1) :=
  Operands.expd80 rd rs1
theorem Operands.expd83 (rd rs1 : RegNum) : Operands.Statement (.expd83 rd rs1) :=
  Operands.expd80 rd rs1

end Sys2Proof.Laws
end

