-- ==== Sys2Proof/Laws/Step.lean ====
section
/-! SUPPORT. Laws/Step: the inversion lemmas of exec and step, which say once what a step can do. -/

namespace Sys2Proof.Machine

/-! Each instruction as the operand check around the state its rule gives. -/

section Equations
variable (rd rs1 rs2 : RegNum) (s : State)

theorem exec_dkhm8 : exec (.dkhm8 rd rs1 rs2) s =
    whenWellFormed (.dkhm8 rd rs1 rs2) s (s.finishPair rd (dkhm8 (s.readPair rs1) (s.readPair rs2))) := rfl
theorem exec_dkhm16 : exec (.dkhm16 rd rs1 rs2) s =
    whenWellFormed (.dkhm16 rd rs1 rs2) s (s.finishPair rd (dkhm16 (s.readPair rs1) (s.readPair rs2))) := rfl
theorem exec_dkabs8 : exec (.dkabs8 rd rs1) s =
    whenWellFormed (.dkabs8 rd rs1) s (s.finishPair rd (dkabs8 (s.readPair rs1))) := rfl
theorem exec_dkabs16 : exec (.dkabs16 rd rs1) s =
    whenWellFormed (.dkabs16 rd rs1) s (s.finishPair rd (dkabs16 (s.readPair rs1))) := rfl
theorem exec_dkslra8 : exec (.dkslra8 rd rs1 rs2) s =
    whenWellFormed (.dkslra8 rd rs1 rs2) s (s.finishPair rd (dkslra8 (s.readPair rs1) (s.readReg rs2))) := rfl
theorem exec_dkslra16 : exec (.dkslra16 rd rs1 rs2) s =
    whenWellFormed (.dkslra16 rd rs1 rs2) s (s.finishPair rd (dkslra16 (s.readPair rs1) (s.readReg rs2))) := rfl
theorem exec_dkadd8 : exec (.dkadd8 rd rs1 rs2) s =
    whenWellFormed (.dkadd8 rd rs1 rs2) s (s.finishPair rd (dkadd8 (s.readPair rs1) (s.readPair rs2))) := rfl
theorem exec_dkadd16 : exec (.dkadd16 rd rs1 rs2) s =
    whenWellFormed (.dkadd16 rd rs1 rs2) s (s.finishPair rd (dkadd16 (s.readPair rs1) (s.readPair rs2))) := rfl
theorem exec_dksub8 : exec (.dksub8 rd rs1 rs2) s =
    whenWellFormed (.dksub8 rd rs1 rs2) s (s.finishPair rd (dksub8 (s.readPair rs1) (s.readPair rs2))) := rfl
theorem exec_dksub16 : exec (.dksub16 rd rs1 rs2) s =
    whenWellFormed (.dksub16 rd rs1 rs2) s (s.finishPair rd (dksub16 (s.readPair rs1) (s.readPair rs2))) := rfl
theorem exec_expd80 : exec (.expd80 rd rs1) s =
    whenWellFormed (.expd80 rd rs1) s (s.finishReg rd (expd 0 (s.readReg rs1))) := rfl
theorem exec_expd81 : exec (.expd81 rd rs1) s =
    whenWellFormed (.expd81 rd rs1) s (s.finishReg rd (expd 1 (s.readReg rs1))) := rfl
theorem exec_expd82 : exec (.expd82 rd rs1) s =
    whenWellFormed (.expd82 rd rs1) s (s.finishReg rd (expd 2 (s.readReg rs1))) := rfl
theorem exec_expd83 : exec (.expd83 rd rs1) s =
    whenWellFormed (.expd83 rd rs1) s (s.finishReg rd (expd 3 (s.readReg rs1))) := rfl

end Equations

/-! The lanes of each SIMD instruction's value. -/

section Lanes
variable (a b : Pair) (c : Word)

theorem dkhm8_lanes : dkhm8 a b = packBytes fun k => khm 8 (byteOf a k) (byteOf b k) := rfl
theorem dkhm16_lanes : dkhm16 a b = packHalves fun k => khm 16 (halfOf a k) (halfOf b k) := rfl
theorem dkadd8_lanes : dkadd8 a b = packBytes fun k => kadd 8 (byteOf a k) (byteOf b k) := rfl
theorem dkadd16_lanes : dkadd16 a b = packHalves fun k => kadd 16 (halfOf a k) (halfOf b k) := rfl
theorem dksub8_lanes : dksub8 a b = packBytes fun k => ksub 8 (byteOf a k) (byteOf b k) := rfl
theorem dksub16_lanes : dksub16 a b = packHalves fun k => ksub 16 (halfOf a k) (halfOf b k) := rfl
theorem dkabs8_lanes : dkabs8 a = packBytes fun k => kabs 8 (byteOf a k) := rfl
theorem dkabs16_lanes : dkabs16 a = packHalves fun k => kabs 16 (halfOf a k) := rfl
theorem dkslra8_lanes : dkslra8 a c = packBytes fun k => kslra 8 (byteOf a k) (controlField 4 c) := rfl
theorem dkslra16_lanes : dkslra16 a c = packHalves fun k => kslra 16 (halfOf a k) (controlField 5 c) := rfl

end Lanes

/-- Every instruction is the operand check around a state that its rule gives. -/
theorem exec_eq_whenWellFormed (i : Instr) : ∃ t : State → State, ∀ s, exec i s = whenWellFormed i s (t s) := by
  cases i <;> exact ⟨_, fun _ => rfl⟩

/-- What an instruction that answers a next state has done: it was well-formed and wrote either a pair, OV and pc, or
one register and pc. -/
theorem exec_next_cases {i : Instr} {s t : State} (h : exec i s = .next t) :
    i.WellFormed ∧
      ((i.type = .simd ∧ ∃ rd res, t = s.finishPair rd res) ∨ (i.type = .dsp ∧ ∃ rd v, t = s.finishReg rd v)) := by
  cases i with
  | expd80 | expd81 | expd82 | expd83 =>
    simp only [exec_expd80, exec_expd81, exec_expd82, exec_expd83, whenWellFormed_eq_next] at h
    exact ⟨h.1, .inr ⟨rfl, _, _, h.2⟩⟩
  | _ =>
    simp only [exec_dkhm8, exec_dkhm16, exec_dkabs8, exec_dkabs16, exec_dkslra8, exec_dkslra16, exec_dkadd8,
      exec_dkadd16, exec_dksub8, exec_dksub16, whenWellFormed_eq_next] at h
    exact ⟨h.1, .inl ⟨rfl, _, _, h.2⟩⟩

/-- What a step that answers a next state has done: it fetched an item of the program and executed its instruction. -/
theorem step_next_cases {s t : State} (h : step s = .next t) :
    ∃ it i, s.fetch = .item it ∧ it.instr? = some i ∧ exec i s = .next t := by
  unfold step at h
  split at h
  · cases h
  · cases h
  · rename_i it hf
    split at h
    · cases h
    · rename_i i hi
      exact ⟨it, i, hf, hi, h⟩

/-- Where the fetch finds an item, the step is what the item's instruction does. -/
theorem step_of_fetch {s : State} {it : Item} {i : Instr} (hf : s.fetch = .item it) (hi : it.instr? = some i) :
    step s = exec i s := by
  simp only [step, hf, hi]

/-- The fetch at the address of item k finds item k. -/
theorem fetch_item {s : State} {k : Nat} {it : Item} (hk : s.prog[k]? = some it)
    (hpc : s.pc.toNat = s.base.toNat + 4 * k) : s.fetch = .item it := by
  have hlt : k < s.prog.length := (List.getElem?_eq_some_iff.1 hk).1
  have hd : (s.pc.toNat - s.base.toNat) / 4 = k := by omega
  simp only [State.fetch, hd, hk]
  rw [if_neg (by omega), if_neg (by omega)]

/-- A fetch that finds an item was made at that item's address. -/
theorem fetch_item_inv {s : State} {it : Item} (h : s.fetch = .item it) :
    ∃ k < s.prog.length, s.pc.toNat = s.base.toNat + 4 * k ∧ s.prog[k]? = some it := by
  simp only [State.fetch] at h
  split at h
  · cases h
  split at h
  · cases h
  split at h
  · rename_i h1 h2 it' hit
    obtain rfl : it' = it := by injection h
    exact ⟨_, (List.getElem?_eq_some_iff.1 hit).1, by omega, hit⟩
  · cases h

end Sys2Proof.Machine
end

