-- ==== Sys2Proof/Tests/Slice0.lean ====
section
/-! SUPPORT. Tests: vectors of spec/95_test_vectors.md (derived there from the rules, not from a run) and of the rules'
own tables, smoke tests of the checks, the decoding of one symbolic word per instruction, and a witness for the
hypotheses of every obligation that has some. -/

namespace Sys2Proof.Tests

open Sys2Proof.Machine

/-- The reset state with some pairs written. -/
def withPairs (pairs : List (RegNum × Pair)) : State :=
  pairs.foldl (fun s p => s.writePair p.1 p.2) State.reset

/-- The reset state with some registers written. -/
def withRegs (regs : List (RegNum × Word)) : State :=
  regs.foldl (fun s p => s.writeReg p.1 p.2) State.reset

/-- The state with a program at base and pc. -/
def withProgram (s : State) (at_ : Word) (prog : List Item) : State :=
  { s with pc := at_, base := at_, prog := prog }

/-- The next state of an outcome. -/
def nextOf : Host.Outcome State Fault Refusal → Option State
  | .next t => some t
  | .fault _ => none
  | .refused _ => none

/-- The refusal of an outcome. -/
def refusalOf? : Host.Outcome State Fault Refusal → Option Refusal
  | .next _ => none
  | .fault _ => none
  | .refused r => some r

/-- A pair and OV after an instruction. -/
def pairAndOv (r : RegNum) (o : Host.Outcome State Fault Refusal) : Option (Pair × Bool) :=
  (nextOf o).map fun t => (t.readPair r, t.ov)

/-- A register and OV after an instruction. -/
def regAndOv (r : RegNum) (o : Host.Outcome State Fault Refusal) : Option (Word × Bool) :=
  (nextOf o).map fun t => (t.readReg r, t.ov)

/-! ### Well-formedness: a term that each check refuses (R32, R71) -/

theorem test_wf_pairX0 : (Instr.dkhm8 0 2 4).illFormed? = some (.pairX0 .rd) := by decide
theorem test_wf_oddPair : (Instr.dksub16 2 4 3).illFormed? = some (.oddPairRegister .rs2) := by decide
theorem test_wf_first_slot : (Instr.dksub8 1 3 0).illFormed? = some (.oddPairRegister .rd) := by decide
theorem test_wf_single_accepts_x0_and_odd :
    (Instr.dkslra8 10 12 0).WellFormed ∧ (Instr.dkslra16 10 12 13).WellFormed ∧ (Instr.expd83 0 31).WellFormed := by
  decide
theorem test_wf_highest_pair : (Instr.dkadd8 30 30 30).WellFormed := by decide

/-! ### Assembly terms (R30, R34, R37) -/

theorem test_term_not_in_scope : Instr.ofTerm "ADD" [1, 2, 3] = none := by decide
theorem test_term_wrong_shape : Instr.ofTerm "DKABS8" [2, 4, 6] = none := by decide
theorem test_reg_names : regOfName "x31" = some 31 ∧ regOfName "a0" = some 10 ∧ regOfName "t6" = some 31 := by decide
theorem test_asm_line : (Instr.dkslra8 10 12 11).asm = "DKSLRA8 x10, x12, x11" := by decide

/-! ### The decoder: the spec's symbolic words ENC(...) (30_encoding.md R36; the spec has no bits, log 2) -/

/-- The word of a well-formed term decodes to it. -/
theorem decodes (i : Instr) (h : i.WellFormed) : (encode i).bind decode = some i := by
  rw [encode, encodeWith, if_pos h, Option.bind_some, decode, decodeWith, Equiv.symm_apply_apply, BitVec.toNat_ofNat,
    Nat.mod_eq_of_lt (number_lt i), ofNumber_number]
  exact if_pos h

theorem test_decode_dkhm8 : (encode (.dkhm8 2 4 6)).bind decode = some (.dkhm8 2 4 6) := decodes _ (by decide)
theorem test_decode_dkhm16 : (encode (.dkhm16 6 6 8)).bind decode = some (.dkhm16 6 6 8) := decodes _ (by decide)
theorem test_decode_dkabs8 : (encode (.dkabs8 30 2)).bind decode = some (.dkabs8 30 2) := decodes _ (by decide)
theorem test_decode_dkabs16 : (encode (.dkabs16 6 6)).bind decode = some (.dkabs16 6 6) := decodes _ (by decide)
theorem test_decode_dkslra8 : (encode (.dkslra8 10 12 11)).bind decode = some (.dkslra8 10 12 11) := decodes _ (by decide)
theorem test_decode_dkslra16 : (encode (.dkslra16 6 6 20)).bind decode = some (.dkslra16 6 6 20) := decodes _ (by decide)
theorem test_decode_dkadd8 : (encode (.dkadd8 12 10 10)).bind decode = some (.dkadd8 12 10 10) := decodes _ (by decide)
theorem test_decode_dkadd16 : (encode (.dkadd16 16 14 10)).bind decode = some (.dkadd16 16 14 10) := decodes _ (by decide)
theorem test_decode_dksub8 : (encode (.dksub8 14 12 10)).bind decode = some (.dksub8 14 12 10) := decodes _ (by decide)
theorem test_decode_dksub16 : (encode (.dksub16 2 4 30)).bind decode = some (.dksub16 2 4 30) := decodes _ (by decide)
theorem test_decode_expd80 : (encode (.expd80 10 5)).bind decode = some (.expd80 10 5) := decodes _ (by decide)
theorem test_decode_expd81 : (encode (.expd81 11 5)).bind decode = some (.expd81 11 5) := decodes _ (by decide)
theorem test_decode_expd82 : (encode (.expd82 31 31)).bind decode = some (.expd82 31 31) := decodes _ (by decide)
theorem test_decode_expd83 : (encode (.expd83 0 14)).bind decode = some (.expd83 0 14) := decodes _ (by decide)
theorem test_encode_ill_formed : encode (.dkabs8 11 12) = none := by decide
theorem test_decode_truncated : decodeBytes [1, 2, 3] = .error .truncated := rfl
theorem test_word_little_endian : wordOfBytes 0x78 0x56 0x34 0x12 = 0x12345678 := by decide

/-! ### Each instruction (vectors of 95_test_vectors.md section 2) -/

/-- DKHM8-1. -/
theorem test_dkhm8_worked :
    pairAndOv 10 (exec (.dkhm8 10 12 14) (withPairs [(12, 0x80FF407F40C07F80), (14, 0x8001407F40408080)])) =
      some (0x7FFF207E20E0817F, true) := by decide
/-- DKHM8-8: the same result as saturation, without OV. -/
theorem test_dkhm8_no_saturation :
    pairAndOv 30 (exec (.dkhm8 30 12 14) (withPairs [(12, 0x8080808080808080), (14, 0x8181818181818181)])) =
      some (0x7F7F7F7F7F7F7F7F, false) := by decide
/-- DKHM16-1. -/
theorem test_dkhm16_worked :
    pairAndOv 10 (exec (.dkhm16 10 12 14) (withPairs [(12, 0x8000FFFF40007FFF), (14, 0x8000000140007FFF)])) =
      some (0x7FFFFFFF20007FFE, true) := by decide
/-- DKHM16-6. -/
theorem test_dkhm16_floor :
    pairAndOv 12 (exec (.dkhm16 12 12 14) (withPairs [(12, 0x8000000100000000), (14, 0x0001800080000000)])) =
      some (0xFFFFFFFF00000000, false) := by decide
/-- DKABS8-1. -/
theorem test_dkabs8_worked :
    pairAndOv 2 (exec (.dkabs8 2 4) (withPairs [(4, 0x80817F00FF01C040)])) = some (0x7F7F7F0001014040, true) := by
  decide
/-- DKABS8-3. -/
theorem test_dkabs8_no_saturation :
    pairAndOv 4 (exec (.dkabs8 4 4) (withPairs [(4, 0x8181818181818181)])) = some (0x7F7F7F7F7F7F7F7F, false) := by
  decide
/-- DKABS16-1. -/
theorem test_dkabs16_worked :
    pairAndOv 2 (exec (.dkabs16 2 4) (withPairs [(4, 0x80008001FFFF7FFF)])) = some (0x7FFF7FFF00017FFF, true) := by
  decide
/-- DKABS16-4. -/
theorem test_dkabs16_bytes_are_no_elements :
    pairAndOv 2 (exec (.dkabs16 2 4) (withPairs [(4, 0x8080808080808080)])) = some (0x7F807F807F807F80, false) := by
  decide
/-- OVL-3: Rs2 is the odd half of the Rd pair, read before it is written. -/
theorem test_dkslra8_overlap :
    pairAndOv 10 (exec (.dkslra8 10 12 11) ((withPairs [(12, 0xE0C01F0810F0207F)]).writeReg 11 2)) =
      some (0x80807C2040C07F7F, true) := by decide
/-- DKSLRA8-5: c = -8. -/
theorem test_dkslra8_minus_eight :
    pairAndOv 2 (exec (.dkslra8 2 12 5) ((withPairs [(12, 0x01407F80FFC03FA5)]).writeReg 5 8)) =
      some (0x000000FFFFFF00FF, false) := by decide
/-- DKSLRA16-10: bits 31:5 of Rs2 are ignored. -/
theorem test_dkslra16_upper_bits :
    pairAndOv 2 (exec (.dkslra16 2 12 5) ((withPairs [(12, 0x000140008000A5A5)]).writeReg 5 0xCAFE0022)) =
      some (0x00047FFF80008000, true) := by decide
/-- DKSLRA16-12: no rounding. -/
theorem test_dkslra16_no_rounding :
    pairAndOv 2 (exec (.dkslra16 2 12 5) ((withPairs [(12, 0x7FFFFFFFC0001234)]).writeReg 5 0x1E)) =
      some (0x1FFFFFFFF000048D, false) := by decide
/-- DKADD8-1. -/
theorem test_dkadd8_worked :
    pairAndOv 10 (exec (.dkadd8 10 12 14) (withPairs [(12, 0x7F807F8001404000), (14, 0x01FF7F80FF3F4080)])) =
      some (0x7F807F80007F7F80, true) := by decide
/-- DKADD8-3: no carry between bytes. -/
theorem test_dkadd8_no_carry :
    pairAndOv 10 (exec (.dkadd8 10 12 14) (withPairs [(12, 0x00FF00FF00FF00FF), (14, 0x0001000100010001)])) =
      some (0, false) := by decide
/-- DKADD16-1. -/
theorem test_dkadd16_worked :
    pairAndOv 10 (exec (.dkadd16 10 12 14) (withPairs [(12, 0x7FFF800000014000), (14, 0x0001FFFFFFFF4000)])) =
      some (0x7FFF800000007FFF, true) := by decide
/-- DKADD16-3: a carry inside a halfword. -/
theorem test_dkadd16_carry :
    pairAndOv 10 (exec (.dkadd16 10 12 14) (withPairs [(12, 0x00FF00FF00FF00FF), (14, 0x0001000100010001)])) =
      some (0x0100010001000100, false) := by decide
/-- DKSUB8-2: Rs1 minus Rs2. -/
theorem test_dksub8_direction :
    pairAndOv 10 (exec (.dksub8 10 12 14) (withPairs [(12, 0x1020304050607080), (14, 0x0102030405060708)])) =
      some (0x0F1E2D3C4B5A6980, true) := by decide
/-- DKSUB8-4: no borrow between bytes. -/
theorem test_dksub8_no_borrow :
    pairAndOv 10 (exec (.dksub8 10 12 14) (withPairs [(12, 0x0100010001000100), (14, 0x0001000100010001)])) =
      some (0x01FF01FF01FF01FF, false) := by decide
/-- DKSUB16-1. -/
theorem test_dksub16_worked :
    pairAndOv 10 (exec (.dksub16 10 12 14) (withPairs [(12, 0x7FFF800000007FFF), (14, 0x0001FFFF8000FFFF)])) =
      some (0x7FFE80017FFF7FFF, true) := by decide
/-- DKSUB16-4: exactly 32767. -/
theorem test_dksub16_exact :
    pairAndOv 10 (exec (.dksub16 10 12 14) (withPairs [(12, 0xFFFF000000000000), (14, 0x8000000000000000)])) =
      some (0x7FFF000000000000, false) := by decide
/-- EXPD-5 with OV before = 1. -/
theorem test_expd80_keeps_ov :
    regAndOv 7 (exec (.expd80 7 5) ((withRegs [(5, 0x80FF007F)]).raiseOv true)) = some (0x7F7F7F7F, true) := by decide
/-- EXPD-11: d = s. -/
theorem test_expd81_in_place : regAndOv 9 (exec (.expd81 9 9) (withRegs [(9, 0xA1B2C3D4)])) = some (0xC3C3C3C3, false) := by
  decide
/-- EXPD-9: x0 discards the result, pc advances. -/
theorem test_expd82_x0 :
    nextOf (exec (.expd82 0 5) (withRegs [(5, 0x00AB0000)])) = some (withRegs [(5, 0x00AB0000)]).advancePc := by decide
/-- EXPD-8. -/
theorem test_expd83_no_sign_extension :
    regAndOv 31 (exec (.expd83 31 5) (withRegs [(5, 0x80FF007F)])) = some (0x80808080, false) := by decide

/-! ### OV, refusals, the step, the launch -/

/-- OV-2: an instruction that saturates nothing does not clear OV. -/
theorem test_ov_sticky :
    pairAndOv 10 (exec (.dkadd8 10 12 14) ((withPairs [(12, 1), (14, 1)]).raiseOv true)) = some (2, true) := by decide
/-- P4 at its second instruction. -/
theorem test_refusal_reason :
    refusalOf? (step (withProgram State.reset 0x80000004 [.asm "DKABS8" [11, 12]])) =
      some (.oddPairRegister .rd 0x80000004) := by decide
/-- REF-14. -/
theorem test_step_not_in_scope :
    refusalOf? (step (withProgram State.reset 0x80000000 [.asm "ADD" [1, 2, 3]])) = some (.notInScope 0x80000000) := by
  decide
/-- R83: just past the only instruction, the run has ended. -/
theorem test_step_ended :
    step { withProgram State.reset 0x80000000 [.asm "EXPD80" [1, 0]] with pc := 0x80000004 } =
      .fault (.ended { withProgram State.reset 0x80000000 [.asm "EXPD80" [1, 0]] with pc := 0x80000004 }) := rfl
theorem test_step_outside :
    refusalOf? (step { withProgram State.reset 0x80000000 [.asm "EXPD80" [1, 0]] with pc := 0x80000002 }) =
      some (.fetchOutsideProgram 0x80000002) := by decide
/-- REF-15. -/
theorem test_launch_misaligned :
    refusalOf? (launch (Vector.replicate 31 0) 0x80000002 false []) = some (.misalignedPc 0x80000002) := by decide
/-- The launch that 95_test_vectors.md section 3 does not admit. -/
theorem test_launch_too_long :
    refusalOf? (launch (Vector.replicate 31 0) 0xFFFFFFF8 false [.asm "EXPD82" [31, 31], .asm "EXPD80" [1, 0]]) =
      some (.programTooLong 0xFFFFFFF8) := by decide
/-- A loaded word is the first instruction after reset. -/
theorem test_loaded_word_runs :
    step (State.reset.loadWordAtPc (Config.encPerm (BitVec.ofNat 32 (Instr.expd80 5 6).number))) =
      exec (.expd80 5 6) (State.reset.loadWordAtPc (Config.encPerm (BitVec.ofNat 32 (Instr.expd80 5 6).number))) :=
  step_of_fetch (fetch_item (k := 0) rfl rfl) (decodes (.expd80 5 6) (by decide))

/-! ### Witnesses: the hypotheses of the obligations can be met, clause by clause -/

theorem witness_khm_least : (0x80 : BitVec 8) = BitVec.ofInt 8 (-2 ^ (8 - 1)) ∧ (0x8000 : BitVec 16) = BitVec.ofInt 16 (-2 ^ (16 - 1)) := by
  decide
theorem witness_khm_other :
    ¬((0x80 : BitVec 8) = BitVec.ofInt 8 (-2 ^ (8 - 1)) ∧ (0x7F : BitVec 8) = BitVec.ofInt 8 (-2 ^ (8 - 1))) := by decide
theorem witness_kabs_negative :
    (0x8001 : BitVec 16) ≠ BitVec.ofInt 16 (-2 ^ (16 - 1)) ∧ (0x8001 : BitVec 16).msb = true ∧ (0x7FFF : BitVec 16).msb = false := by
  decide
theorem witness_kslra_directions :
    (0x8 : BitVec 4).toInt < 0 ∧ (0xF : BitVec 4).toInt < 0 ∧ 0 ≤ (0x0 : BitVec 4).toInt ∧ 0 ≤ (0x7 : BitVec 4).toInt ∧
      (0x10 : BitVec 5).toInt < 0 ∧ 0 ≤ (0xF : BitVec 5).toInt := by decide
theorem witness_shift_upper_bits :
    (0xDEADBEE3 : Word).extractLsb' 0 4 = (3 : Word).extractLsb' 0 4 ∧ (0xCAFE0022 : Word).extractLsb' 0 5 = (2 : Word).extractLsb' 0 5 := by
  decide
theorem witness_expd_index : (0 < 4 ∧ 3 < 4) := by decide
theorem witness_legal_pairs : LegalPair 2 ∧ LegalPair 12 ∧ LegalPair 30 := by decide
theorem witness_illegal_pairs :
    ¬(LegalPair 0 ∧ LegalPair 2 ∧ LegalPair 4) ∧ ¬(LegalPair 2 ∧ LegalPair 31 ∧ LegalPair 4) ∧ ¬(LegalPair 2 ∧ LegalPair 1) := by
  decide
theorem witness_pair_halves : LegalPair 30 ∧ (31 : RegNum).val = (30 : RegNum).val + 1 := by decide
theorem witness_register_write : (31 : RegNum) ≠ 0 ∧ (1 : RegNum) ≠ 31 := by decide

/-- One state in which an instruction of each operand format answers a next state (the frames, R13, R14, R15, R76). -/
theorem witness_exec_next :
    (nextOf (exec (.dkhm8 2 4 6) State.reset)).isSome ∧ (nextOf (exec (.dkslra16 30 30 31) State.reset)).isSome ∧
      (nextOf (exec (.dkabs16 2 2) State.reset)).isSome ∧ (nextOf (exec (.expd82 0 31) State.reset)).isSome := by decide
theorem witness_expd_is_dsp : (Instr.expd80 1 2).type = .dsp := by decide

/-- Two states that agree on the sources of an instruction and differ elsewhere. -/
theorem witness_same_sources :
    (∀ r ∈ sourceRegs (.dkslra8 10 12 11), (withRegs [(12, 5), (3, 7)]).readReg r = (withRegs [(12, 5), (3, 8)]).readReg r) ∧
      (nextOf (exec (.dkslra8 10 12 11) (withRegs [(12, 5), (3, 7)]))).isSome := by decide

/-- An ill-formed operand after a legal one, and an ill-formed first operand. -/
theorem witness_ill_formed_operand :
    (Instr.dksub8 2 3 0).operands = [⟨.rd, .pair, 2⟩] ++ ⟨.rs1, .pair, 3⟩ :: [⟨.rs2, .pair, 0⟩] ∧
      LegalOperand ⟨.rd, .pair, 2⟩ ∧ (3 : RegNum).val % 2 = 1 ∧
      (Instr.dkabs8 0 2).operands = [] ++ ⟨.rd, .pair, 0⟩ :: [⟨.rs1, .pair, 2⟩] := by decide

/-- One state with a program of one well-formed instruction, OV set, pc at its first item. -/
def oneStep : State := (withProgram State.reset 0xFFFFFFF8 [.asm "EXPD80" [5, 5]]).raiseOv true

theorem witness_step_next : (nextOf (step oneStep)).isSome ∧ oneStep.ov = true := by decide
theorem witness_on_course : oneStep.OnCourse := ⟨by decide, by decide, 0, by decide, by decide⟩
theorem witness_program_well_formed : oneStep.ProgramWellFormed := by
  intro it hit
  obtain rfl : it = .asm "EXPD80" [5, 5] := List.mem_singleton.1 hit
  exact ⟨.expd80 5 5, rfl, by decide⟩
theorem witness_step_item :
    oneStep.prog[0]? = some (.asm "EXPD80" [5, 5]) ∧ oneStep.pc.toNat = oneStep.base.toNat + 4 * 0 ∧
      (Item.asm "EXPD80" [5, 5]).instr? = some (.expd80 5 5) ∧ (Item.asm "ADD" [1, 2, 3]).instr? = none := by decide
theorem witness_step_end : oneStep.advancePc.pc.toNat = oneStep.advancePc.base.toNat + 4 * oneStep.advancePc.prog.length := by
  decide
theorem witness_step_outside : ∀ k ≤ State.reset.prog.length,
    ({ State.reset with pc := 1 } : State).pc.toNat ≠ ({ State.reset with pc := 1 } : State).base.toNat + 4 * k := by decide

/-- A word that decodes, as a program and as bytes. -/
theorem witness_decoded_word :
    ∃ w, encode (.expd81 1 2) = some w ∧ decode w = some (.expd81 1 2) ∧
      decodeBytes (bytesOfWord w) = .ok (.expd81 1 2, []) := by
  refine ⟨Config.encPerm (BitVec.ofNat 32 (Instr.expd81 1 2).number), rfl, decodes (.expd81 1 2) (by decide), ?_⟩
  have h := decodeBytes_bytesOfWord (Config.encPerm (BitVec.ofNat 32 (Instr.expd81 1 2).number)) []
  rw [List.append_nil, show decode _ = some _ from decodes (.expd81 1 2) (by decide)] at h
  exact h

theorem witness_launch_clauses :
    (0x80000002 : Word).toNat % 4 ≠ 0 ∧ (0xFFFFFFF8 : Word).toNat % 4 = 0 ∧ 2 ^ 32 ≤ (0xFFFFFFF8 : Word).toNat + 4 * 2 ∧
      (0xFFFFFFF4 : Word).toNat % 4 = 0 ∧ (0xFFFFFFF4 : Word).toNat + 4 * 2 < 2 ^ 32 := by decide

/-- An admitted launch of a well-formed program, at the highest base that two instructions admit. -/
theorem witness_launch_admitted :
    launch (Vector.replicate 31 0) 0xFFFFFFF8 true [.asm "EXPD80" [5, 5]] = .next oneStep := rfl

/-- A lawful encoding exists: R36 (a) and (b) can be met together. -/
theorem witness_lawful_encoding :
    ∃ (enc : Instr → Word) (dec : Word → Option Instr),
      (∀ i, i.WellFormed → dec (enc i) = some i) ∧ (∀ w i, dec w = some i → i.WellFormed ∧ enc i = w) := by
  classical
  let enc : Instr → Word := fun i => BitVec.ofNat 32 i.number
  have hinj : Function.Injective enc := fun i j h => number_injective (by
    have h' := congrArg BitVec.toNat h
    simp only [enc, BitVec.toNat_ofNat, Nat.mod_eq_of_lt (number_lt _)] at h'
    exact h')
  refine ⟨enc, fun w => if h : ∃ i : Instr, i.WellFormed ∧ enc i = w then some h.choose else none, ?_, ?_⟩
  · intro i hi
    have h : ∃ j : Instr, j.WellFormed ∧ enc j = enc i := ⟨i, hi, rfl⟩
    beta_reduce
    rw [dif_pos h, hinj h.choose_spec.2]
  · intro w i hw
    beta_reduce at hw
    by_cases h : ∃ j : Instr, j.WellFormed ∧ enc j = w
    · rw [dif_pos h] at hw
      obtain rfl := Option.some.inj hw
      exact h.choose_spec
    · rw [dif_neg h] at hw
      cases hw

end Sys2Proof.Tests
end

section
/-! Proofs: the Q multiply, spec/40_simd_q_multiply.md. -/

namespace Sys2Proof.Machine

/-! ### The bits of an integer -/

/-- Dividing by `2^i` commutes with cutting off the bits from `w` on, as far as the `n` bits from `i` on can see. -/
theorem emod_two_pow_ediv_emod {w i n : Nat} (h : i + n ≤ w) (x : Int) :
    x % 2 ^ w / 2 ^ i % 2 ^ n = x / 2 ^ i % 2 ^ n := by
  obtain ⟨d, rfl⟩ := Nat.exists_eq_add_of_le h
  have hx : x = x % 2 ^ (i + n + d) + 2 ^ n * (2 ^ d * (x / 2 ^ (i + n + d))) * 2 ^ i := by
    conv_lhs => rw [← Int.emod_add_mul_ediv x (2 ^ (i + n + d))]
    ring
  conv_rhs => rw [hx, Int.add_mul_ediv_right _ _ (by positivity), Int.add_mul_emod_self_left]

/-- The `n` bits from bit `i` on of an integer written in `w` bits are those of its floor over `2^i`. -/
theorem extractLsb'_ofInt {w i n : Nat} (h : i + n ≤ w) (x : Int) :
    (BitVec.ofInt w x).extractLsb' i n = BitVec.ofInt n (x / 2 ^ i) := by
  apply BitVec.eq_of_toNat_eq
  zify
  rw [BitVec.extractLsb'_toNat, BitVec.toNat_ofInt, BitVec.toNat_ofInt, Nat.shiftRight_eq_div_pow]
  push_cast
  rw [Int.toNat_of_nonneg (Int.emod_nonneg _ (by positivity)), Int.toNat_of_nonneg (Int.emod_nonneg _ (by positivity)),
    emod_two_pow_ediv_emod h]

/-! ### The shifted product of two elements -/

section Product
variable {n : Nat} {a b : BitVec n}

theorem abs_toInt_le (a : BitVec n) : |a.toInt| ≤ 2 ^ (n - 1) := by
  have := toInt_range a
  rw [abs_le]; omega

theorem abs_toInt_lt (hn : 0 < n) (h : a ≠ BitVec.ofInt n (-2 ^ (n - 1))) : |a.toInt| < 2 ^ (n - 1) := by
  have := toInt_range a
  have := mt (eq_least_iff hn a).2 h
  rw [abs_lt]; omega

/-- A product of two elements reaches `2^(n-1) * 2^(n-1)` in magnitude only where both are most negative. -/
theorem abs_toInt_mul_toInt_lt (hn : 0 < n)
    (h : ¬(a = BitVec.ofInt n (-2 ^ (n - 1)) ∧ b = BitVec.ofInt n (-2 ^ (n - 1)))) :
    |a.toInt * b.toInt| < 2 ^ (n - 1) * 2 ^ (n - 1) := by
  rw [abs_mul]
  rcases not_and_or.1 h with ha | hb
  · exact mul_lt_mul_of_lt_of_le_of_nonneg_of_pos (abs_toInt_lt hn ha) (abs_toInt_le b) (abs_nonneg _) (by positivity)
  · exact mul_lt_mul' (abs_toInt_le a) (abs_toInt_lt hn hb) (abs_nonneg _) (by positivity)

/-- R40: but for the one saturating case, the shifted product fits `n` bits. -/
theorem toInt_mul_ediv_range (hn : 0 < n)
    (h : ¬(a = BitVec.ofInt n (-2 ^ (n - 1)) ∧ b = BitVec.ofInt n (-2 ^ (n - 1)))) :
    -2 ^ (n - 1) ≤ a.toInt * b.toInt / 2 ^ (n - 1) ∧ a.toInt * b.toInt / 2 ^ (n - 1) ≤ 2 ^ (n - 1) - 1 := by
  have hM : (0 : Int) < 2 ^ (n - 1) := by positivity
  obtain ⟨hlow, hhigh⟩ := abs_lt.1 (abs_toInt_mul_toInt_lt hn h)
  refine ⟨(Int.le_ediv_iff_mul_le hM).2 ?_, Int.le_sub_one_of_lt ((Int.ediv_lt_iff_lt_mul hM).2 hhigh)⟩
  rw [neg_mul]
  exact hlow.le

end Product

/-! ### The two cases of `khm` as the instructions' rules word them (R41, R42) -/

section Lanes
variable {n : Nat} (a b : BitVec n)

theorem khm_value : (khm n a b).value =
    if a = BitVec.ofInt n (-2 ^ (n - 1)) ∧ b = BitVec.ofInt n (-2 ^ (n - 1)) then BitVec.ofInt n (2 ^ (n - 1) - 1)
    else BitVec.ofInt n (a.toInt * b.toInt / 2 ^ (n - 1)) := by
  rw [khm, apply_ite Sat.value]

theorem khm_sat : (khm n a b).sat = true ↔
    a = BitVec.ofInt n (-2 ^ (n - 1)) ∧ b = BitVec.ofInt n (-2 ^ (n - 1)) := by
  by_cases h : a = BitVec.ofInt n (-2 ^ (n - 1)) ∧ b = BitVec.ofInt n (-2 ^ (n - 1))
  · simp only [khm_of_least h, true_iff]; exact h
  · simp only [khm_of_other h, Bool.false_eq_true, false_iff]; exact h

end Lanes

/-! ### The two answers of an instruction: the state its rule gives, or a refusal -/

/-- An instruction that is well-formed exactly on legal operands answers the state its rule gives there, with that
state's effect, and a refusal on all others. -/
theorem whenWellFormed_answers {s t : State} {i : Instr} {legal : Prop} {effect : State → Prop}
    (hi : i.WellFormed ↔ legal) (ht : legal → effect t) :
    (legal → ∃ u, whenWellFormed i s t = .next u ∧ effect u) ∧
      (¬legal → ∃ r, whenWellFormed i s t = .refused r) :=
  ⟨fun h => ⟨t, whenWellFormed_of_wellFormed (hi.2 h), ht h⟩, fun h => whenWellFormed_refused (mt hi.1 h)⟩

/-- The form in which `Laws.Operands` and the results speak of three pair operands. -/
theorem forall_legalPair_triple {rd rs1 rs2 : RegNum} :
    (∀ r ∈ [rd, rs1, rs2], LegalPair r) ↔ LegalPair rd ∧ LegalPair rs1 ∧ LegalPair rs2 := by
  simp only [List.forall_mem_cons, List.not_mem_nil, false_implies, implies_true, and_true]

/-! ### The obligations -/

/-- Settles O1: the shifted product fits N bits, so that writing it in N bits loses nothing. -/
theorem khmElement : Obligations.KhmElement := by
  intro n hn a b
  have hn : 0 < n := by omega
  refine ⟨khm_of_least, fun h => ?_⟩
  obtain ⟨hlow, hhigh⟩ := toInt_mul_ediv_range hn h
  rw [khm_of_other h]
  exact ⟨toInt_ofInt hn hlow hhigh, (extractLsb'_ofInt (by omega) _).symm, rfl⟩

/-- Settles O9: lane k of DKHM8 is `khm` on byte k of the two pairs. -/
theorem dkhm8Result : Obligations.Dkhm8Result := by
  intro rd rs1 rs2 s
  rw [exec_dkhm8, dkhm8_lanes]
  exact whenWellFormed_answers ((Laws.Operands.dkhm8 rd rs1 rs2).trans forall_legalPair_triple) fun h =>
    finishPair_packBytes h.1 (fun _ => khm_value _ _) (fun _ => khm_sat _ _)

/-- Settles O10: lane k of DKHM16 is `khm` on halfword k of the two pairs. -/
theorem dkhm16Result : Obligations.Dkhm16Result := by
  intro rd rs1 rs2 s
  rw [exec_dkhm16, dkhm16_lanes]
  exact whenWellFormed_answers ((Laws.Operands.dkhm16 rd rs1 rs2).trans forall_legalPair_triple) fun h =>
    finishPair_packHalves h.1 (fun _ => khm_value _ _) (fun _ => khm_sat _ _)

end Sys2Proof.Machine
end

section
/-! Proofs: the saturating absolute value, spec/41_simd_abs.md. -/

namespace Sys2Proof.Machine

/-! ### The absolute value of an element -/

/-- An integer above the signed range is saturated to the greatest element. -/
theorem saturate_of_gt {n : Nat} {x : Int} (h : 2 ^ (n - 1) - 1 < x) :
    saturate n x = ⟨BitVec.ofInt n (2 ^ (n - 1) - 1), true⟩ := by
  have hs : outOfRange n x = true := (saturate_sat x).2 (.inl h)
  have : (0 : Int) < 2 ^ (n - 1) := by positivity
  rw [saturate, hs, show min (max x (-2 ^ (n - 1))) (2 ^ (n - 1) - 1) = 2 ^ (n - 1) - 1 by omega]

section Kabs
variable {n : Nat} {a : BitVec n}

theorem kabs_of_nonneg (hn : 0 < n) (hm : a.msb = false) : kabs n a = ⟨a, false⟩ := by
  have hpos : (0 : Int) < 2 ^ (n - 1) := by positivity
  have ha : 0 ≤ a.toInt := BitVec.toInt_nonneg_of_msb_false hm
  have hl : a ≠ BitVec.ofInt n (-2 ^ (n - 1)) := mt (eq_least_iff hn a).1 (by omega)
  rw [kabs, if_neg hl, if_neg (by simp [hm])]

/-- R45: only the magnitude of the most negative element is outside the signed range. -/
theorem kabs_eq_saturate (hn : 0 < n) (a : BitVec n) : kabs n a = saturate n |a.toInt| := by
  by_cases hl : a = BitVec.ofInt n (-2 ^ (n - 1))
  · rw [kabs_of_least hl, (eq_least_iff hn a).1 hl, abs_neg, abs_of_nonneg (by positivity), saturate_of_gt (by omega)]
  · have hlt := abs_toInt_lt hn hl
    have habs := abs_nonneg a.toInt
    rw [saturate_of_range (by omega) (by omega)]
    cases hm : a.msb with
    | true => rw [kabs_of_negative hl hm, abs_of_neg (BitVec.toInt_neg_of_msb_true hm)]
    | false => rw [kabs_of_nonneg hn hm, abs_of_nonneg (BitVec.toInt_nonneg_of_msb_false hm), BitVec.ofInt_toInt]

/-- R45: the result is never negative. -/
theorem kabs_value_msb (hn : 0 < n) (a : BitVec n) : (kabs n a).value.msb = false := by
  have hpos : (0 : Int) < 2 ^ (n - 1) := by positivity
  have habs := abs_nonneg a.toInt
  rw [kabs_eq_saturate hn, BitVec.msb_eq_toInt, saturate_toInt _ hn, decide_eq_false_iff_not]
  omega

end Kabs

/-! ### `kabs` as the instructions' rules word it (R46, R47) -/

section Lanes
variable {n : Nat} (a : BitVec n)

theorem kabs_value : (kabs n a).value =
    if a = BitVec.ofInt n (-2 ^ (n - 1)) then BitVec.ofInt n (2 ^ (n - 1) - 1)
    else if a.toInt < 0 then BitVec.ofInt n (-a.toInt)
    else a := by
  simp only [kabs, BitVec.msb_eq_toInt, decide_eq_true_eq, apply_ite Sat.value]

theorem kabs_sat : (kabs n a).sat = true ↔ a = BitVec.ofInt n (-2 ^ (n - 1)) := by
  by_cases h : a = BitVec.ofInt n (-2 ^ (n - 1))
  · simp only [kabs_of_least h, true_iff]; exact h
  · rw [kabs, if_neg h]
    split <;> simpa only [Bool.false_eq_true, false_iff]

end Lanes

/-- The form in which `Laws.Operands` and the results speak of two pair operands. -/
theorem forall_legalPair_double {rd rs1 : RegNum} :
    (∀ r ∈ [rd, rs1], LegalPair r) ↔ LegalPair rd ∧ LegalPair rs1 := by
  rw [List.forall_mem_cons, List.forall_mem_singleton]

/-! ### The obligations -/

/-- Settles O3: each case of `kabs` is the saturated magnitude, which is never negative. -/
theorem kabsElement : Obligations.KabsElement := by
  intro n hn a
  have hn : 0 < n := by omega
  exact ⟨kabs_of_least, fun h => kabs_of_negative h.1 h.2, kabs_of_nonneg hn, kabs_eq_saturate hn a,
    kabs_value_msb hn a⟩

/-- Settles O11: lane k of DKABS8 is `kabs` on byte k of the pair. -/
theorem dkabs8Result : Obligations.Dkabs8Result := by
  intro rd rs1 s
  rw [exec_dkabs8, dkabs8_lanes]
  exact whenWellFormed_answers ((Laws.Operands.dkabs8 rd rs1).trans forall_legalPair_double) fun h =>
    finishPair_packBytes h.1 (fun _ => kabs_value _) (fun _ => kabs_sat _)

/-- Settles O12: lane k of DKABS16 is `kabs` on halfword k of the pair. -/
theorem dkabs16Result : Obligations.Dkabs16Result := by
  intro rd rs1 s
  rw [exec_dkabs16, dkabs16_lanes]
  exact whenWellFormed_answers ((Laws.Operands.dkabs16 rd rs1).trans forall_legalPair_double) fun h =>
    finishPair_packHalves h.1 (fun _ => kabs_value _) (fun _ => kabs_sat _)

end Sys2Proof.Machine
end

section
/-! Proofs: the saturating left and arithmetic right shift, spec/42_simd_shift.md. -/

namespace Sys2Proof.Machine

/-! ### The right shift -/

section RightShift
variable {n i : Nat} (a : BitVec n)

/-- R50: sign-extending the bits from bit `i` on is the arithmetic right shift by `i`. -/
theorem signExtend_extractLsb'_eq_sshiftRight (h : i < n) :
    (a.extractLsb' i (n - i)).signExtend n = a.sshiftRight i := by
  have hmsb : (a.extractLsb' i (n - i)).msb = a.msb := by
    simp only [BitVec.msb_eq_getLsbD_last, BitVec.getLsbD_extractLsb', show n - i - 1 < n - i by omega, decide_true,
      Bool.true_and, show i + (n - i - 1) = n - 1 by omega]
  apply BitVec.eq_of_getLsbD_eq
  intro j hj
  rw [BitVec.getLsbD_signExtend, BitVec.getLsbD_sshiftRight, hmsb, BitVec.getLsbD_extractLsb']
  by_cases hlt : i + j < n
  · simp [hj, hlt, show j < n - i by omega]
  · simp [hj, hlt, show ¬j < n - i by omega]

/-- R50: the arithmetic right shift by `i`, as a signed number, is the floor over `2^i`. -/
theorem toInt_sshiftRight_eq_ediv : (a.sshiftRight i).toInt = a.toInt / 2 ^ i := by
  rw [BitVec.toInt_sshiftRight, Int.shiftRight_eq_div_pow, Nat.cast_pow, Nat.cast_ofNat]

theorem sshiftRight_eq_ofInt_ediv : a.sshiftRight i = BitVec.ofInt n (a.toInt / 2 ^ i) := by
  rw [← toInt_sshiftRight_eq_ediv, BitVec.ofInt_toInt]

end RightShift

/-! ### The control field -/

section ControlField
variable {n l : Nat} (c : BitVec l)

/-- R50: the magnitude N acts as N-1, so the right amount is the magnitude, but never more than N-1. -/
theorem rightAmount_eq_min (h : n = 2 ^ (l - 1)) : rightAmount n c = min (n - 1) (-c.toInt).toNat := by
  have hlow := BitVec.le_toInt c
  have hn : (n : Int) = 2 ^ (l - 1) := by exact_mod_cast h
  simp only [rightAmount]
  split <;> omega

theorem rightAmount_lt (h : n = 2 ^ (l - 1)) : rightAmount n c < n := by
  have : 0 < n := h ▸ Nat.two_pow_pos _
  rw [rightAmount_eq_min c h]
  omega

/-- The bits of a non-negative control field below its sign are its value. -/
theorem extractLsb'_toNat_of_msb_false {c : BitVec l} (h : c.msb = false) :
    (c.extractLsb' 0 (l - 1)).toNat = c.toNat := by
  rw [BitVec.extractLsb'_toNat, Nat.shiftRight_zero, Nat.mod_eq_of_lt (BitVec.toNat_lt_of_msb_false h)]

end ControlField

/-! ### The two directions of `kslra`, as the element's rule and the instructions' rules word them (R50 to R52) -/

section Kslra
variable {n l : Nat} (a : BitVec n) (c : BitVec l)

theorem kslra_of_toInt_neg (hn : n = 2 ^ (l - 1)) (h : c.toInt < 0) :
    kslra n a c = ⟨a.sshiftRight (rightAmount n c), false⟩ := by
  rw [kslra_of_negative (by simpa [BitVec.msb_eq_toInt]),
    signExtend_extractLsb'_eq_sshiftRight a (rightAmount_lt c hn)]

theorem kslra_of_toInt_nonneg (h : 0 ≤ c.toInt) : kslra n a c = saturate n (a.toInt * 2 ^ c.toNat) := by
  have hm : c.msb = false := by simpa [BitVec.msb_eq_toInt]
  rw [kslra_of_nonneg hm, extractLsb'_toNat_of_msb_false hm]

theorem kslra_value (hn : n = 2 ^ (l - 1)) : (kslra n a c).value =
    if c.toInt < 0 then BitVec.ofInt n (a.toInt / 2 ^ min (n - 1) (-c.toInt).toNat)
    else BitVec.ofInt n (max (-2 ^ (n - 1)) (min (2 ^ (n - 1) - 1) (a.toInt * 2 ^ c.toNat))) := by
  by_cases h : c.toInt < 0
  · rw [if_pos h, kslra_of_toInt_neg a c hn h, rightAmount_eq_min c hn, sshiftRight_eq_ofInt_ediv]
  · rw [if_neg h, kslra_of_toInt_nonneg a c (not_lt.1 h), ← saturate_toInt _ (hn ▸ Nat.two_pow_pos _),
      BitVec.ofInt_toInt]

theorem kslra_sat (hn : n = 2 ^ (l - 1)) : (kslra n a c).sat = true ↔
    0 ≤ c.toInt ∧ (a.toInt * 2 ^ c.toNat > 2 ^ (n - 1) - 1 ∨ a.toInt * 2 ^ c.toNat < -2 ^ (n - 1)) := by
  by_cases h : c.toInt < 0
  · simp only [kslra_of_toInt_neg a c hn h, Bool.false_eq_true, not_le.2 h, false_and]
  · rw [kslra_of_toInt_nonneg a c (not_lt.1 h), saturate_sat, and_iff_right (not_lt.1 h)]

end Kslra

/-! ### The obligations -/

/-- Settles O4: a right shift keeps the floor of the quotient, a left shift is the saturated product. -/
theorem kslraElement : Obligations.KslraElement := by
  intro n l hnl a c
  have hn : n = 2 ^ (l - 1) := by rcases hnl with ⟨rfl, rfl⟩ | ⟨rfl, rfl⟩ <;> rfl
  have hpos : 0 < n := by omega
  refine ⟨fun h => ?_, fun h => ?_⟩
  · rw [kslra_of_toInt_neg a c hn h]
    exact ⟨toInt_sshiftRight_eq_ediv a, rfl⟩
  · rw [kslra_of_toInt_nonneg a c h]
    exact ⟨saturate_toInt _ hpos, saturate_sat _⟩

/-- Settles O13: lane k of DKSLRA8 is `kslra` on byte k of the pair and the low four bits of Rs2. -/
theorem dkslra8Result : Obligations.Dkslra8Result := by
  intro rd rs1 rs2 s
  rw [exec_dkslra8, dkslra8_lanes]
  exact whenWellFormed_answers ((Laws.Operands.dkslra8 rd rs1 rs2).trans forall_legalPair_double) fun h =>
    finishPair_packBytes h.1 (fun _ => kslra_value _ _ rfl) (fun _ => kslra_sat _ _ rfl)

/-- Settles O14: lane k of DKSLRA16 is `kslra` on halfword k of the pair and the low five bits of Rs2. -/
theorem dkslra16Result : Obligations.Dkslra16Result := by
  intro rd rs1 rs2 s
  rw [exec_dkslra16, dkslra16_lanes]
  exact whenWellFormed_answers ((Laws.Operands.dkslra16 rd rs1 rs2).trans forall_legalPair_double) fun h =>
    finishPair_packHalves h.1 (fun _ => kslra_value _ _ rfl) (fun _ => kslra_sat _ _ rfl)

end Sys2Proof.Machine
end

section
/-! Proofs: the saturating add and subtract, spec/43_simd_addsub.md. -/

namespace Sys2Proof.Machine

/-! ### What saturation keeps of an integer -/

section Saturate
variable {n : Nat} (x : Int)

theorem saturate_value (hn : 0 < n) :
    (saturate n x).value = BitVec.ofInt n (max (-2 ^ (n - 1)) (min (2 ^ (n - 1) - 1) x)) := by
  rw [← saturate_toInt x hn, BitVec.ofInt_toInt]

/-- R55: the saturation bit is set exactly where clamping changed the integer. -/
theorem saturate_sat_iff_toInt_ne (hn : 0 < n) :
    (saturate n x).sat = true ↔ (saturate n x).value.toInt ≠ x := by
  have hpos : (0 : Int) < 2 ^ (n - 1) := by positivity
  rw [saturate_sat, saturate_toInt x hn]
  omega

end Saturate

/-! ### The exact sum and difference need one bit more than an element (R55) -/

section Range
variable {n : Nat} (a b : BitVec n)

theorem toInt_add_toInt_range : -2 ^ n ≤ a.toInt + b.toInt ∧ a.toInt + b.toInt ≤ 2 ^ n - 1 := by
  have := a.le_two_mul_toInt
  have := b.le_two_mul_toInt
  have := a.two_mul_toInt_lt
  have := b.two_mul_toInt_lt
  omega

theorem toInt_sub_toInt_range : -2 ^ n ≤ a.toInt - b.toInt ∧ a.toInt - b.toInt ≤ 2 ^ n - 1 := by
  have := a.le_two_mul_toInt
  have := b.le_two_mul_toInt
  have := a.two_mul_toInt_lt
  have := b.two_mul_toInt_lt
  omega

end Range

/-! ### `kadd` and `ksub` as the instructions' rules word them (R56 to R59) -/

section Lanes
variable {n : Nat} (a b : BitVec n)

theorem kadd_value (hn : 0 < n) : (kadd n a b).value =
    BitVec.ofInt n (max (-2 ^ (n - 1)) (min (2 ^ (n - 1) - 1) (a.toInt + b.toInt))) := saturate_value _ hn

theorem kadd_sat : (kadd n a b).sat = true ↔
    a.toInt + b.toInt > 2 ^ (n - 1) - 1 ∨ a.toInt + b.toInt < -2 ^ (n - 1) := saturate_sat _

theorem ksub_value (hn : 0 < n) : (ksub n a b).value =
    BitVec.ofInt n (max (-2 ^ (n - 1)) (min (2 ^ (n - 1) - 1) (a.toInt - b.toInt))) := saturate_value _ hn

theorem ksub_sat : (ksub n a b).sat = true ↔
    a.toInt - b.toInt > 2 ^ (n - 1) - 1 ∨ a.toInt - b.toInt < -2 ^ (n - 1) := saturate_sat _

end Lanes

/-! ### The obligations -/

/-- Settles O7: `kadd` and `ksub` saturate the exact sum and difference, which fit N+1 bits. -/
theorem addSubElement : Obligations.AddSubElement := by
  intro n hn a b
  have hn : 0 < n := by omega
  obtain ⟨hsumLow, hsumHigh⟩ := toInt_add_toInt_range a b
  obtain ⟨hdiffLow, hdiffHigh⟩ := toInt_sub_toInt_range a b
  exact ⟨⟨hsumLow, hsumHigh, saturate_toInt _ hn, saturate_sat_iff_toInt_ne _ hn⟩,
    ⟨hdiffLow, hdiffHigh, saturate_toInt _ hn, saturate_sat_iff_toInt_ne _ hn⟩⟩

/-- Settles O15: lane k of DKADD8 is `kadd` on byte k of the two pairs. -/
theorem dkadd8Result : Obligations.Dkadd8Result := by
  intro rd rs1 rs2 s
  rw [exec_dkadd8, dkadd8_lanes]
  exact whenWellFormed_answers ((Laws.Operands.dkadd8 rd rs1 rs2).trans forall_legalPair_triple) fun h =>
    finishPair_packBytes h.1 (fun _ => kadd_value _ _ (by decide)) (fun _ => kadd_sat _ _)

/-- Settles O16: lane k of DKADD16 is `kadd` on halfword k of the two pairs. -/
theorem dkadd16Result : Obligations.Dkadd16Result := by
  intro rd rs1 rs2 s
  rw [exec_dkadd16, dkadd16_lanes]
  exact whenWellFormed_answers ((Laws.Operands.dkadd16 rd rs1 rs2).trans forall_legalPair_triple) fun h =>
    finishPair_packHalves h.1 (fun _ => kadd_value _ _ (by decide)) (fun _ => kadd_sat _ _)

/-- Settles O17: lane k of DKSUB8 is `ksub` on byte k of the two pairs, Rs1 minus Rs2. -/
theorem dksub8Result : Obligations.Dksub8Result := by
  intro rd rs1 rs2 s
  rw [exec_dksub8, dksub8_lanes]
  exact whenWellFormed_answers ((Laws.Operands.dksub8 rd rs1 rs2).trans forall_legalPair_triple) fun h =>
    finishPair_packBytes h.1 (fun _ => ksub_value _ _ (by decide)) (fun _ => ksub_sat _ _)

/-- Settles O18: lane k of DKSUB16 is `ksub` on halfword k of the two pairs, Rs1 minus Rs2. -/
theorem dksub16Result : Obligations.Dksub16Result := by
  intro rd rs1 rs2 s
  rw [exec_dksub16, dksub16_lanes]
  exact whenWellFormed_answers ((Laws.Operands.dksub16 rd rs1 rs2).trans forall_legalPair_triple) fun h =>
    finishPair_packHalves h.1 (fun _ => ksub_value _ _ (by decide)) (fun _ => ksub_sat _ _)

end Sys2Proof.Machine
end

section
/-! Proofs: the byte broadcast, spec/44_expand.md. -/

namespace Sys2Proof.Machine

/-! ### The four copies of a byte -/

/-- R62: byte k of the broadcast of byte n is byte n, whichever k. -/
theorem byteOf_expd {n k : Nat} (v : Word) (hk : k < 4) : byteOf (expd n v) k = byteOf v n := by
  simp only [expd]
  interval_cases k <;> simp only [byteOf_append_zero, byteOf_append_succ, byteOf_self]

/-- A byte appended at the low end adds its value to 256 times the rest. -/
theorem toNat_append_byte {w : Nat} (x : BitVec w) (b : Byte) : (x ++ b).toNat = x.toNat * 2 ^ 8 + b.toNat := by
  rw [BitVec.toNat_append, ← Nat.shiftLeft_add_eq_or_of_lt b.isLt, Nat.shiftLeft_eq]

/-- R62: four copies of a byte are its product with 0x01010101. -/
theorem expd_toNat (n : Nat) (v : Word) : (expd n v).toNat = (byteOf v n).toNat * 0x01010101 := by
  rw [expd, toNat_append_byte, toNat_append_byte, toNat_append_byte]
  omega

/-! ### The shared result of the four instructions -/

/-- A well-formed instruction that ends by writing the broadcast of byte n to Rd answers a next state, with the effect
that R63 to R66 word; where Rd is x0 the write is discarded. -/
theorem whenWellFormed_expd {i : Instr} (hi : i.WellFormed) (s : State) (rd : RegNum) (n : Nat) (v : Word) :
    ∃ t, whenWellFormed i s (s.finishReg rd (expd n v)) = .next t ∧ ExpandEffect s t rd (byteOf v n) :=
  ⟨_, whenWellFormed_of_wellFormed hi,
    { bytes := fun h k hk => by rw [readReg_finishReg_same h, byteOf_expd v hk]
      x0 := by rintro rfl; exact finishReg_x0_regs _
      ov := finishReg_ov s rd _
      pc := finishReg_pc s rd _
      keeps := finishReg_keeps s rd _ }⟩

/-! ### The obligations -/

/-- Settles O8: each of the four bytes is a copy of byte n, and their sum by place is the product. -/
theorem expdElement : Obligations.ExpdElement :=
  fun n _ v => ⟨fun _ hk => byteOf_expd v hk, expd_toNat n v⟩

/-- Settles O19: EXPD80 has no operand that could be ill-formed, and broadcasts byte 0. -/
theorem expd80Result : Obligations.Expd80Result := by
  intro rd rs1 s
  rw [exec_expd80]
  exact whenWellFormed_expd ((Laws.Operands.expd80 rd rs1).2 (List.forall_mem_nil _)) s rd 0 _

/-- Settles O20: EXPD81 has no operand that could be ill-formed, and broadcasts byte 1. -/
theorem expd81Result : Obligations.Expd81Result := by
  intro rd rs1 s
  rw [exec_expd81]
  exact whenWellFormed_expd ((Laws.Operands.expd81 rd rs1).2 (List.forall_mem_nil _)) s rd 1 _

/-- Settles O21: EXPD82 has no operand that could be ill-formed, and broadcasts byte 2. -/
theorem expd82Result : Obligations.Expd82Result := by
  intro rd rs1 s
  rw [exec_expd82]
  exact whenWellFormed_expd ((Laws.Operands.expd82 rd rs1).2 (List.forall_mem_nil _)) s rd 2 _

/-- Settles O22: EXPD83 has no operand that could be ill-formed, and broadcasts byte 3. -/
theorem expd83Result : Obligations.Expd83Result := by
  intro rd rs1 s
  rw [exec_expd83]
  exact whenWellFormed_expd ((Laws.Operands.expd83 rd rs1).2 (List.forall_mem_nil _)) s rd 3 _

end Sys2Proof.Machine
end

section
/-! Proofs: the absence of exceptions, spec/60_exceptions.md. -/

namespace Sys2Proof.Machine

/-! ### The obligations -/

/-- Settles O31: every instruction is the operand check around the state its rule gives. The check lets a well-formed
instruction through to that state, and itself answers only a next state or a refusal. -/
theorem noInstructionFaults : Obligations.NoInstructionFaults := by
  intro i s
  obtain ⟨t, hexec⟩ := exec_eq_whenWellFormed i
  rw [hexec s]
  exact ⟨fun hi => ⟨t s, whenWellFormed_of_wellFormed hi⟩, whenWellFormed_ne_fault⟩

end Sys2Proof.Machine
end

section
/-! Proofs: the step, the launch and the run, spec/70_reset_and_hazards.md and spec/20_memory.md. -/

namespace Sys2Proof.Machine

/-! ### The three answers of the fetch (R22, R82) -/

section Fetch
variable {s : State}

/-- The fetch at the end address finds the end of the run. -/
theorem fetch_ended (h : s.pc.toNat = s.base.toNat + 4 * s.prog.length) : s.fetch = .ended := if_pos h

/-- The fetch at any other address that is no item's finds nothing. -/
theorem fetch_outside (h : ∀ k ≤ s.prog.length, s.pc.toNat ≠ s.base.toNat + 4 * k) : s.fetch = .outside := by
  have hend := h s.prog.length le_rfl
  have hitem := h ((s.pc.toNat - s.base.toNat) / 4)
  simp only [State.fetch]
  rw [if_neg hend, if_pos (by omega)]

theorem step_ended (h : s.pc.toNat = s.base.toNat + 4 * s.prog.length) : step s = .fault (.ended s) := by
  simp only [step, fetch_ended h]

theorem step_outside (h : ∀ k ≤ s.prog.length, s.pc.toNat ≠ s.base.toNat + 4 * k) :
    step s = .refused (.fetchOutsideProgram s.pc) := by
  simp only [step, fetch_outside h]

theorem step_notInScope {it : Item} (hf : s.fetch = .item it) (hi : it.instr? = none) :
    step s = .refused (.notInScope s.pc) := by
  simp only [step, hf, hi]

end Fetch

/-! ### What an instruction and a step do to pc, base and the program -/

section Frame
variable {s t : State} {i : Instr}

theorem exec_next_frame (h : exec i s = .next t) : t.pc = s.pc + 4 ∧ t.base = s.base ∧ t.prog = s.prog := by
  obtain ⟨-, ⟨-, rd, res, rfl⟩ | ⟨-, rd, v, rfl⟩⟩ := exec_next_cases h
  · exact ⟨finishPair_pc s rd res, finishPair_base s rd res, finishPair_prog s rd res⟩
  · exact ⟨finishReg_pc s rd v, finishReg_base s rd v, finishReg_prog s rd v⟩

/-- A step that answers a next state starts at the address of an item and moves pc on by one item. -/
theorem step_next_frame (h : step s = .next t) :
    (∃ k < s.prog.length, s.pc.toNat = s.base.toNat + 4 * k) ∧
      t.pc = s.pc + 4 ∧ t.base = s.base ∧ t.prog = s.prog := by
  obtain ⟨it, i, hfetch, -, hexec⟩ := step_next_cases h
  obtain ⟨k, hk, hpc, -⟩ := fetch_item_inv hfetch
  exact ⟨⟨k, hk, hpc⟩, exec_next_frame hexec⟩

end Frame

/-! ### States on course (R80) -/

section OnCourse
variable {s t : State}

/-- On course, pc does not wrap: a step moves it on by 4 exactly. -/
theorem step_next_pc_toNat (hs : s.OnCourse) (h : step s = .next t) : t.pc.toNat = s.pc.toNat + 4 := by
  obtain ⟨⟨k, hk, hpc⟩, hpc', -, -⟩ := step_next_frame h
  have hfits := hs.program_fits
  rw [hpc', BitVec.toNat_add_of_lt (show s.pc.toNat + 4 < 2 ^ 32 by omega)]
  rfl

/-- The invariant of a run: a step from the address of item k, k below n, ends at the address of item k + 1 or at the
end address. -/
theorem onCourse_of_step_next (hs : s.OnCourse) (h : step s = .next t) : t.OnCourse := by
  obtain ⟨⟨k, hk, hpc⟩, -, hbase, hprog⟩ := step_next_frame h
  have hpc' := step_next_pc_toNat hs h
  obtain ⟨haligned, hfits, -⟩ := hs
  exact ⟨hbase ▸ haligned, hbase ▸ hprog ▸ hfits, k + 1, hprog ▸ hk, by rw [hbase]; omega⟩

theorem pc_aligned_of_onCourse (hs : s.OnCourse) : s.pc.toNat % 4 = 0 := by
  obtain ⟨haligned, -, k, -, hpc⟩ := hs
  omega

theorem programWellFormed_of_step_next (hw : s.ProgramWellFormed) (h : step s = .next t) : t.ProgramWellFormed := by
  obtain ⟨-, -, -, hprog⟩ := step_next_frame h
  exact fun it hit => hw it (hprog ▸ hit)

/-- Before the end of a well-formed program, a step answers a next state. -/
theorem step_next_of_onCourse (hs : s.OnCourse) (hw : s.ProgramWellFormed)
    (hend : s.pc.toNat ≠ s.base.toNat + 4 * s.prog.length) : ∃ t, step s = .next t := by
  obtain ⟨-, -, k, hk, hpc⟩ := hs
  have hlt : k < s.prog.length := lt_of_le_of_ne hk fun e => hend (e ▸ hpc)
  obtain ⟨i, hi, hwf⟩ := hw _ (List.getElem_mem hlt)
  rw [step_of_fetch (fetch_item (List.getElem?_eq_getElem hlt) hpc) hi]
  exact (noInstructionFaults i s).1 hwf

end OnCourse

/-! ### The launch (R80) -/

section Launch
variable {regs : Vector Word 31} {pc : Word} {ov : Bool} {prog : List Item}

theorem launch_misaligned (h : pc.toNat % 4 ≠ 0) : launch regs pc ov prog = .refused (.misalignedPc pc) := if_pos h

theorem launch_tooLong (h : pc.toNat % 4 = 0) (hlen : 2 ^ 32 ≤ pc.toNat + 4 * prog.length) :
    launch regs pc ov prog = .refused (.programTooLong pc) := by
  rw [launch, if_neg (not_not.2 h), if_pos hlen]

/-- Where the alignment and the length are as R80 asks, the answer turns on the first item that is no instruction. -/
theorem launch_of_fits (h : pc.toNat % 4 = 0) (hlen : pc.toNat + 4 * prog.length < 2 ^ 32) :
    launch regs pc ov prog =
      ((prog.findIdx? fun it => it.instr?.isNone).elim (.next (launchState regs pc ov prog)) fun k =>
        .refused (.notInScope (itemAddress pc k))) := by
  rw [launch, if_neg (not_not.2 h), if_neg (not_le.2 hlen)]
  cases prog.findIdx? fun it => it.instr?.isNone <;> rfl

theorem launchState_onCourse (h : pc.toNat % 4 = 0) (hlen : pc.toNat + 4 * prog.length < 2 ^ 32) :
    (launchState regs pc ov prog).OnCourse := ⟨h, hlen, 0, Nat.zero_le _, rfl⟩

/-- A launch that is admitted met the two premises on RESET_PC and gave the launch state. -/
theorem launch_next_cases {s : State} (h : launch regs pc ov prog = .next s) :
    s = launchState regs pc ov prog ∧ s.OnCourse := by
  by_cases haligned : pc.toNat % 4 = 0
  · by_cases hfits : pc.toNat + 4 * prog.length < 2 ^ 32
    · rw [launch_of_fits haligned hfits] at h
      cases hfind : prog.findIdx? fun it => it.instr?.isNone with
      | none =>
        obtain rfl : launchState regs pc ov prog = s := by simpa [hfind] using h
        exact ⟨rfl, launchState_onCourse haligned hfits⟩
      | some k => simp [hfind] at h
    · simp [launch_tooLong haligned (not_lt.1 hfits)] at h
  · simp [launch_misaligned haligned] at h

theorem findIdx?_isNone_eq_none (h : ∀ it ∈ prog, ∃ i, it.instr? = some i) :
    (prog.findIdx? fun it => it.instr?.isNone) = none := by
  rw [List.findIdx?_eq_none_iff]
  intro it hit
  obtain ⟨i, hi⟩ := h it hit
  rw [hi, Option.isNone_some]

theorem findIdx?_isNone_append {before after : List Item} {it : Item}
    (h : ∀ x ∈ before, ∃ i, x.instr? = some i) (hit : it.instr? = none) :
    ((before ++ it :: after).findIdx? fun it => it.instr?.isNone) = some before.length := by
  simp [List.findIdx?_append, findIdx?_isNone_eq_none h, List.findIdx?_cons, hit]

end Launch

/-! ### The run (R83) -/

section Run
variable {s t : State} (n : Nat)

theorem run_succ_of_next (h : step s = .next t) : Host.Core.run core (n + 1) s = Host.Core.run core n t := by
  have h : core.step s = .next t := h
  simp only [Host.Core.run, h]

theorem run_succ_of_fault {f : Fault} (h : step s = .fault f) : Host.Core.run core (n + 1) s = .fault f := by
  have h : core.step s = .fault f := h
  simp only [Host.Core.run, h]

/-- A run of a well-formed program ends when the `n` items that stand from pc on are executed. -/
theorem endsAfter_of_onCourse (hs : s.OnCourse) (hw : s.ProgramWellFormed)
    (hn : s.pc.toNat + 4 * n = s.base.toNat + 4 * s.prog.length) :
    ∃ t, EndsAfter n s t ∧ t.pc.toNat = s.pc.toNat + 4 * n := by
  induction n generalizing s with
  | zero => exact ⟨s, ⟨rfl, step_ended hn⟩, rfl⟩
  | succ n ih =>
    obtain ⟨u, hu⟩ := step_next_of_onCourse hs hw (by omega)
    have hpc := step_next_pc_toNat hs hu
    obtain ⟨-, -, hbase, hprog⟩ := step_next_frame hu
    obtain ⟨t, ⟨hrun, hend⟩, ht⟩ :=
      ih (onCourse_of_step_next hs hu) (programWellFormed_of_step_next hw hu) (by rw [hbase, hprog]; omega)
    exact ⟨t, ⟨(run_succ_of_next n hu).trans hrun, hend⟩, by omega⟩

theorem run_ne_refused (hs : s.OnCourse) (hw : s.ProgramWellFormed) (r : Refusal) :
    Host.Core.run core n s ≠ .refused r := by
  induction n generalizing s with
  | zero => exact nofun
  | succ n ih =>
    by_cases hend : s.pc.toNat = s.base.toNat + 4 * s.prog.length
    · rw [run_succ_of_fault n (step_ended hend)]
      exact nofun
    · obtain ⟨t, ht⟩ := step_next_of_onCourse hs hw hend
      rw [run_succ_of_next n ht]
      exact ih (onCourse_of_step_next hs ht) (programWellFormed_of_step_next hw ht)

end Run

/-! ### The obligations -/

/-- Settles O36: a step from item k of a program that ends below 2^32 moves pc on by 4 without a wrap. -/
theorem stepKeepsOnCourse : Obligations.StepKeepsOnCourse := fun _ _ hs h =>
  have ht := onCourse_of_step_next hs h
  ⟨ht, pc_aligned_of_onCourse ht⟩

/-- Settles O33: one answer for each of the three results of the fetch, and for an item that is no instruction. -/
theorem stepAnswers : Obligations.StepAnswers := fun _ =>
  ⟨step_ended, step_outside, fun _ _ hk hpc =>
    ⟨step_notInScope (fetch_item hk hpc), fun _ => step_of_fetch (fetch_item hk hpc)⟩⟩

/-- Settles O35: a step that answers a next state is one instruction, whose two endings write neither field. -/
theorem programIsImmutable : Obligations.ProgramIsImmutable := fun _ _ h =>
  have ⟨_, _, hbase, hprog⟩ := step_next_frame h
  ⟨hprog, hbase⟩

/-- Settles O39: the premises are tried in R80's order, and the first item that is no instruction is found past the
items before it. -/
theorem launchAnswers : Obligations.LaunchAnswers := by
  intro regs pc ov prog
  refine ⟨launch_misaligned, launch_tooLong, fun haligned hfits => ⟨fun hprog => ?_, ?_⟩⟩
  · refine ⟨_, ?_, launchState_onCourse haligned hfits, rfl, rfl, rfl, rfl, rfl⟩
    rw [launch_of_fits haligned hfits, findIdx?_isNone_eq_none hprog, Option.elim_none]
  · rintro before it after rfl hbefore hit
    rw [launch_of_fits haligned hfits, findIdx?_isNone_append hbefore hit, Option.elim_some, itemAddress]

/-- Settles O40: the launch state stands at the first of the program's items. -/
theorem runEndsAfterProgramLength : Obligations.RunEndsAfterProgramLength := by
  intro regs pc ov prog s h hw
  obtain ⟨rfl, hs⟩ := launch_next_cases h
  exact endsAfter_of_onCourse prog.length hs hw rfl

/-- Settles O41: being on course with a well-formed program is kept by every step, and such a step is not refused. -/
theorem wellFormedProgramIsNeverRefused : Obligations.WellFormedProgramIsNeverRefused := fun _ hs hw n r =>
  run_ne_refused n hs hw r

/-- Settles O37: with the empty program the reset pc is the end address. -/
theorem resetIsOnCourse : Obligations.ResetIsOnCourse := ⟨rfl, by decide, 0, le_rfl, rfl⟩

theorem readReg_reset (r : RegNum) : State.reset.readReg r = 0 := by
  simp [State.readReg]

/-- Settles O38: reset fills the register file with zeros, and its pc is the end address of the empty program. -/
theorem resetState : Obligations.ResetState := ⟨readReg_reset, reset_pc, reset_ov, step_ended rfl⟩

end Sys2Proof.Machine
end

section
/-! Proofs: the encoding, spec/30_encoding.md section 5. -/

namespace Sys2Proof.Machine

/-! ### Decoding inverts encoding, whatever the permutation is (R36) -/

/-- The three register fields and the mnemonic's number, put together again, are the number. -/
theorem packNumber_fields {n k : Nat} (h : n / 32768 = k) :
    packNumber k (regField n 1024) (regField n 32) (regField n 1) = n := by
  simp only [packNumber, regField]
  omega

theorem packNumber_fields_zero {n k : Nat} (h : n / 32768 = k) (h0 : regField n 1 = 0) :
    packNumber k (regField n 1024) (regField n 32) 0 = n := h0 ▸ packNumber_fields h

theorem twoOperands_eq_some {rs2 : RegNum} {i j : Instr} : twoOperands rs2 i = some j ↔ rs2 = 0 ∧ i = j := by
  simp [twoOperands]

/-- A term is read from its own number only. -/
theorem number_of_ofNumber {n : Nat} {i : Instr} (h : Instr.ofNumber n = some i) : i.number = n := by
  simp only [Instr.ofNumber] at h
  split at h
  all_goals rename_i hk
  -- The mnemonics with two operands: the third field is 0.
  case h_3 | h_4 | h_11 | h_12 | h_13 | h_14 =>
    obtain ⟨h0, rfl⟩ := twoOperands_eq_some.1 h
    exact packNumber_fields_zero hk h0
  case h_15 => cases h
  all_goals
    obtain rfl := Option.some.inj h
    exact packNumber_fields hk

theorem ofNumber_eq_some {n : Nat} {i : Instr} : Instr.ofNumber n = some i ↔ i.number = n :=
  ⟨number_of_ofNumber, fun h => h ▸ ofNumber_number i⟩

section Permutation
variable (p : Equiv.Perm Word) {i : Instr} {w : Word}

/-- The word that carries the number of a term, before the permutation. -/
def numberWord (i : Instr) : Word := BitVec.ofNat 32 i.number

theorem numberWord_toNat (i : Instr) : (numberWord i).toNat = i.number := by
  rw [numberWord, BitVec.toNat_ofNat, Nat.mod_eq_of_lt (number_lt i)]

theorem numberWord_injective : Function.Injective numberWord := fun i j h =>
  number_injective (by rw [← numberWord_toNat i, ← numberWord_toNat j, h])

theorem encodeWith_eq_some : encodeWith p i = some w ↔ i.WellFormed ∧ p (numberWord i) = w := by
  simp [encodeWith, numberWord]

/-- DEC answers exactly the well-formed instructions, each for its own word. -/
theorem decodeWith_eq_some : decodeWith p w = some i ↔ i.WellFormed ∧ p (numberWord i) = w := by
  have hword : i.number = (p.symm w).toNat ↔ p (numberWord i) = w := by
    rw [← numberWord_toNat, BitVec.toNat_inj, Equiv.eq_symm_apply]
  rw [← hword, ← ofNumber_eq_some]
  cases hn : Instr.ofNumber (p.symm w).toNat with
  | none => simp [decodeWith, hn]
  | some j =>
    simp only [decodeWith, hn, Option.ite_none_right_eq_some, Option.some.injEq]
    exact and_congr_left fun hji => hji ▸ Iff.rfl

end Permutation

/-- R36 (a) and (b) in one: DEC and ENC are one relation between words and instructions. -/
theorem decode_eq_some_iff_encode {w : Word} {i : Instr} : decode w = some i ↔ encode i = some w :=
  (decodeWith_eq_some _).trans (encodeWith_eq_some _).symm

theorem encode_of_wellFormed {i : Instr} (h : i.WellFormed) : ∃ w, encode i = some w :=
  ⟨_, (encodeWith_eq_some _).2 ⟨h, rfl⟩⟩

theorem decodeBytes_of_encode {i : Instr} {w : Word} (h : encode i = some w) (rest : List Byte) :
    decodeBytes (bytesOfWord w ++ rest) = .ok (i, rest) := by
  simp only [decodeBytes_bytesOfWord, decode_eq_some_iff_encode.2 h]

theorem bind_encode_decode {i : Instr} (h : i.WellFormed) : (encode i).bind decode = some i := by
  obtain ⟨w, hw⟩ := encode_of_wellFormed h
  rw [hw, Option.bind_some, decode_eq_some_iff_encode.2 hw]

/-! ### Loading a word (logs 2, 4) -/

theorem tableWord_toNat (w : Word) : tableWord 32 w.toNat = w := by
  rw [tableWord, Nat.mod_eq_of_lt w.isLt, BitVec.ofNat_toNat, BitVec.setWidth_eq]

theorem withFetchWord_toNat (s : State) (w : Word) : s.withFetchWord 32 w.toNat = s.loadWordAtPc w := by
  rw [State.withFetchWord, tableWord_toNat]

theorem decodeTableWord_of_encode {i : Instr} {w : Word} (h : encode i = some w) :
    decodeTableWord 32 w.toNat = some i := by
  have hbytes := decodeBytes_of_encode h []
  rw [List.append_nil] at hbytes
  simp only [decodeTableWord, le_refl, if_true, tableWord_toNat, hbytes]

theorem fetch_loadWordAtPc (s : State) (w : Word) : (s.loadWordAtPc w).fetch = .item (.word w) :=
  fetch_item (k := 0) rfl rfl

/-- An encoder that keeps well-formed instructions apart is the numbering followed by a permutation. -/
theorem exists_perm_numberWord_eq {enc : {i : Instr // i.WellFormed} → Word} (h : Function.Injective enc) :
    ∃ p : Equiv.Perm Word, ∀ i, p (numberWord i.1) = enc i :=
  have := Finite.of_injective enc h
  Equiv.Perm.exists_extending_pair _ enc (numberWord_injective.comp Subtype.val_injective) h

/-! ### The obligations -/

/-- Settles O42: DEC inverts ENC on words, and the bytes of a word are read back as the word. -/
theorem encodedInstructionDecodes : Obligations.EncodedInstructionDecodes := by
  intro i hi
  obtain ⟨w, hw⟩ := encode_of_wellFormed hi
  exact ⟨w, hw, decode_eq_some_iff_encode.2 hw, decodeBytes_of_encode hw⟩

/-- Settles O43: DEC checks the operands of the one term whose number the word carries. -/
theorem decodedWordIsAnEncoding : Obligations.DecodedWordIsAnEncoding := fun _ _ h =>
  ⟨((decodeWith_eq_some _).1 h).1, decode_eq_some_iff_encode.1 h⟩

/-- Settles O44: R36 (a) makes the encoder injective on well-formed instructions, and (a) with (b) fixes the decoder
by the encoder. -/
theorem everyLawfulEncodingIsAdmitted : Obligations.EveryLawfulEncodingIsAdmitted := by
  intro enc dec hdecEnc hencDec
  have hinj : Function.Injective fun i : {i : Instr // i.WellFormed} => enc i.1 := fun i j h =>
    Subtype.ext (Option.some.inj (by rw [← hdecEnc i.1 i.2, ← hdecEnc j.1 j.2]; exact congrArg dec h))
  have hdec (w : Word) (i : Instr) : dec w = some i ↔ i.WellFormed ∧ enc i = w :=
    ⟨hencDec w i, fun ⟨hi, hw⟩ => hw ▸ hdecEnc i hi⟩
  obtain ⟨p, hp⟩ := exists_perm_numberWord_eq hinj
  refine ⟨p, fun i hi => (encodeWith_eq_some p).2 ⟨hi, hp ⟨i, hi⟩⟩, fun w => Option.ext fun i => ?_⟩
  rw [decodeWith_eq_some, hdec]
  exact and_congr_right fun hi => by rw [hp ⟨i, hi⟩]

/-- Settles O45: the loaded word is the only item of the program, and stands at pc. -/
theorem loadedWordRunsNext : Obligations.LoadedWordRunsNext := by
  intro i w s h
  rw [withFetchWord_toNat]
  exact ⟨decodeTableWord_of_encode h, step_of_fetch (fetch_loadWordAtPc s w) (decode_eq_some_iff_encode.2 h),
    loadWordAtPc_regs s w, loadWordAtPc_ov s w, loadWordAtPc_pc s w⟩

/-- Settles O34: the bytes of a word decode to the instruction that the word does. -/
theorem stepRunsDecodedWord : Obligations.StepRunsDecodedWord := by
  intro s k w i hk hpc h
  refine step_of_fetch (fetch_item hk hpc) ?_
  have hbytes := decodeBytes_bytesOfWord w []
  rw [List.append_nil, h] at hbytes
  cases hw : decode w with
  | none => simp [hw] at hbytes
  | some j =>
    obtain rfl : i = j := by simpa [hw] using hbytes
    exact hw

/-- Settles O46: the five terms are well-formed. -/
theorem symbolicWordsDecode : Obligations.SymbolicWordsDecode :=
  ⟨bind_encode_decode (by decide), bind_encode_decode (by decide), bind_encode_decode (by decide),
    bind_encode_decode (by decide), bind_encode_decode (by decide)⟩

end Sys2Proof.Machine
end

section
/-! Proofs: the registers, OV and pc, spec/10_state.md, and the refusals of spec/60_exceptions.md section 1. -/

namespace Sys2Proof.Machine

/-! ### The pair convention (R12) -/

theorem pairHigh_eq_of_val {i j : RegNum} (h : LegalPair i) (hj : j.val = i.val + 1) : pairHigh i = j :=
  Fin.ext ((pairHigh_val h).trans hj.symm)

section Pair
variable (s : State) (r : RegNum)

theorem readPair_low : (s.readPair r).extractLsb' 0 32 = s.readReg r := by
  rw [State.readPair, BitVec.extractLsb'_append_eq_of_add_le (by omega)]
  exact BitVec.extractLsb'_eq_self

theorem readPair_high : (s.readPair r).extractLsb' 32 32 = s.readReg (pairHigh r) := by
  rw [State.readPair, BitVec.extractLsb'_append_eq_of_le (by omega)]
  exact BitVec.extractLsb'_eq_self

end Pair

/-- A pair operand of a well-formed instruction is legal. -/
theorem legalPair_of_wellFormed {i : Instr} (hi : i.WellFormed) {slot : Slot} {r : RegNum}
    (h : ⟨slot, .pair, r⟩ ∈ i.operands) : LegalPair r :=
  (wellFormed_iff i).1 hi _ h rfl

/-! ### What the two endings leave in the registers of Rd -/

section Destination
variable {s : State} {rd : RegNum}

@[simp] theorem readReg_zero (s : State) : s.readReg 0 = 0 := rfl

theorem readReg_finishPair_low (h : LegalPair rd) (res : Sat 64) :
    (s.finishPair rd res).readReg rd = res.value.extractLsb' 0 32 := by
  rw [readReg_finishPair, readReg_writePair_low _ _ _ h]

theorem readReg_finishPair_high (h : LegalPair rd) (res : Sat 64) :
    (s.finishPair rd res).readReg (pairHigh rd) = res.value.extractLsb' 32 32 := by
  rw [readReg_finishPair, readReg_writePair_high _ _ _ h]

theorem readReg_finishReg_rd (v : Word) : (s.finishReg rd v).readReg rd = if rd = 0 then 0 else v := by
  by_cases h : rd = 0
  · rw [if_pos h, h, readReg_zero]
  · rw [if_neg h, readReg_finishReg_same h]

end Destination

/-! ### What an instruction computes depends on its source registers (R11, R16) -/

/-- `f` gives the same on states that agree on the registers `rs`. -/
def DeterminedBy {α : Type} (rs : List RegNum) (f : State → α) : Prop :=
  ∀ s u : State, (∀ r ∈ rs, s.readReg r = u.readReg r) → f s = f u

section DeterminedBy
variable {rs : List RegNum} {r : RegNum}

theorem determinedBy_readReg (h : r ∈ rs) : DeterminedBy rs (·.readReg r) := fun _ _ hsu => hsu r h

theorem determinedBy_readPair (h : r ∈ rs) (h' : pairHigh r ∈ rs) : DeterminedBy rs (·.readPair r) :=
  fun _ _ hsu => congrArg₂ (· ++ ·) (hsu _ h') (hsu _ h)

theorem DeterminedBy.map {α β : Type} {f : State → α} (hf : DeterminedBy rs f) (g : α → β) :
    DeterminedBy rs fun s => g (f s) := fun s u hsu => congrArg g (hf s u hsu)

theorem DeterminedBy.map₂ {α β γ : Type} {f : State → α} {f' : State → β} (hf : DeterminedBy rs f)
    (hf' : DeterminedBy rs f') (g : α → β → γ) : DeterminedBy rs fun s => g (f s) (f' s) :=
  fun s u hsu => congrArg₂ g (hf s u hsu) (hf' s u hsu)

end DeterminedBy

/-- The rule of every instruction: behind the operand check it writes to the registers of Rd a result that its source
registers determine, and it ends as a SIMD instruction or as an EXPD8n does. -/
theorem exec_rule (i : Instr) :
    (∃ rd res, ⟨.rd, .pair, rd⟩ ∈ i.operands ∧ destRegs i = [rd, pairHigh rd] ∧
      DeterminedBy (sourceRegs i) res ∧ ∀ s, exec i s = whenWellFormed i s (s.finishPair rd (res s))) ∨
    (∃ rd v, destRegs i = [rd] ∧ DeterminedBy (sourceRegs i) v ∧
      ∀ s, exec i s = whenWellFormed i s (s.finishReg rd (v s))) := by
  cases i with
  | dkhm8 rd rs1 rs2 | dkhm16 rd rs1 rs2 | dkadd8 rd rs1 rs2 | dkadd16 rd rs1 rs2 | dksub8 rd rs1 rs2
  | dksub16 rd rs1 rs2 =>
    refine .inl ⟨rd, _, .head _, rfl, DeterminedBy.map₂ ?_ ?_ _, fun _ => rfl⟩
    · exact determinedBy_readPair (.head _) (.tail _ (.head _))
    · exact determinedBy_readPair (.tail _ (.tail _ (.head _))) (.tail _ (.tail _ (.tail _ (.head _))))
  | dkslra8 rd rs1 rs2 | dkslra16 rd rs1 rs2 =>
    refine .inl ⟨rd, _, .head _, rfl, DeterminedBy.map₂ ?_ ?_ _, fun _ => rfl⟩
    · exact determinedBy_readPair (.head _) (.tail _ (.head _))
    · exact determinedBy_readReg (.tail _ (.tail _ (.head _)))
  | dkabs8 rd rs1 | dkabs16 rd rs1 =>
    refine .inl ⟨rd, _, .head _, rfl, DeterminedBy.map ?_ _, fun _ => rfl⟩
    exact determinedBy_readPair (.head _) (.tail _ (.head _))
  | expd80 rd rs1 | expd81 rd rs1 | expd82 rd rs1 | expd83 rd rs1 =>
    refine .inr ⟨rd, _, rfl, DeterminedBy.map ?_ _, fun _ => rfl⟩
    exact determinedBy_readReg (.head _)

/-! ### No instruction reads pc or OV (R14, R76) -/

section PcOv
variable (s : State) (rd : RegNum) (p : Word) (b : Bool)

theorem writeReg_setPcOv (v : Word) :
    { s with pc := p, ov := b }.writeReg rd v = { s.writeReg rd v with pc := p, ov := b } := by
  unfold State.writeReg
  split <;> rfl

theorem finishPair_setPcOv (res : Sat 64) : { s with pc := p, ov := b }.finishPair rd res =
    { s.finishPair rd res with pc := p + 4, ov := b || res.sat } := by
  simp only [State.finishPair, State.writePair, writeReg_setPcOv]
  rfl

theorem finishReg_setPcOv (v : Word) : { s with pc := p, ov := b }.finishReg rd v =
    { s.finishReg rd v with pc := p + 4, ov := b } := by
  simp only [State.finishReg, writeReg_setPcOv]
  rfl

theorem DeterminedBy.setPcOv {α : Type} {rs : List RegNum} {f : State → α} (hf : DeterminedBy rs f) :
    f { s with pc := p, ov := b } = f s :=
  hf _ _ fun r _ => readReg_congr r rfl

end PcOv

/-- Whatever pc and OV were before, an instruction moves pc on by 4, raises OV in all cases or in none, and does
everything else alike. -/
theorem exec_setPcOv {i : Instr} {s t : State} (h : exec i s = .next t) :
    ∃ f : Bool, t.ov = (s.ov || f) ∧
      ∀ p b, exec i { s with pc := p, ov := b } = .next { t with pc := p + 4, ov := b || f } := by
  obtain ⟨rd, res, -, -, hres, hexec⟩ | ⟨rd, v, -, hv, hexec⟩ := exec_rule i
  · rw [hexec, whenWellFormed_eq_next] at h
    obtain ⟨hi, rfl⟩ := h
    refine ⟨(res s).sat, finishPair_ov s rd _, fun p b => ?_⟩
    rw [hexec, hres.setPcOv, finishPair_setPcOv, whenWellFormed_of_wellFormed hi]
  · rw [hexec, whenWellFormed_eq_next] at h
    obtain ⟨hi, rfl⟩ := h
    refine ⟨false, by rw [finishReg_ov, Bool.or_false], fun p b => ?_⟩
    rw [hexec, hv.setPcOv, finishReg_setPcOv, whenWellFormed_of_wellFormed hi, Bool.or_false]

/-! ### The reason of a refusal (R71) -/

section Refusal
variable {o : Operand} {i : Instr} {reason : IllFormed}

theorem illFormed_of_pair_zero (hk : o.kind = .pair) (h : o.reg = 0) : o.illFormed? = some (.pairX0 o.slot) := by
  simp [Operand.illFormed?, hk, h]

theorem illFormed_of_pair_odd (hk : o.kind = .pair) (h : o.reg.val % 2 = 1) :
    o.illFormed? = some (.oddPairRegister o.slot) := by
  simp only [Operand.illFormed?, hk]
  rw [if_neg (by omega), if_pos h]

/-- An operand that follows only legal ones decides the check of the instruction. -/
theorem illFormed_of_first {before after : List Operand} (hops : i.operands = before ++ o :: after)
    (hbefore : ∀ p ∈ before, LegalOperand p) (ho : o.illFormed? = some reason) : i.illFormed? = some reason := by
  have hnone : before.findSome? Operand.illFormed? = none :=
    List.findSome?_eq_none_iff.2 fun p hp => (illFormed_eq_none p).2 (hbefore p hp)
  rw [Instr.illFormed?, hops, List.findSome?_append, hnone, Option.none_or, List.findSome?_cons, ho]

theorem exec_of_illFormed (h : i.illFormed? = some reason) (s : State) :
    exec i s = .refused (refusalOf reason s.pc) := by
  obtain ⟨t, hexec⟩ := exec_eq_whenWellFormed i
  rw [hexec, whenWellFormed_of_illFormed h]

end Refusal

/-! ### The obligations -/

/-- Settles O27: by the rule of the instruction its result is the same on both states; the registers it writes are
those of Rd, where Rd is x0 nothing is left. -/
theorem instructionReadsOnlyItsSources : Obligations.InstructionReadsOnlyItsSources := by
  intro i s u s' hsu h
  obtain ⟨rd, res, hrd, hdest, hres, hexec⟩ | ⟨rd, v, hdest, hv, hexec⟩ := exec_rule i
  · rw [hexec, whenWellFormed_eq_next] at h
    obtain ⟨hi, rfl⟩ := h
    have hlegal := legalPair_of_wellFormed hi hrd
    rw [hres s u hsu, hexec, hdest]
    refine ⟨_, whenWellFormed_of_wellFormed hi, ?_, fun r hr => ?_, (res u).sat, finishPair_ov s rd _,
      finishPair_ov u rd _⟩
    · simp [readReg_finishPair_low hlegal, readReg_finishPair_high hlegal]
    · simp only [List.mem_cons, List.not_mem_nil, or_false, not_or] at hr
      exact (finishPair_keeps u rd _).regs r hr.1 hr.2
  · rw [hexec, whenWellFormed_eq_next] at h
    obtain ⟨hi, rfl⟩ := h
    rw [hv s u hsu, hexec, hdest]
    refine ⟨_, whenWellFormed_of_wellFormed hi, ?_, fun r hr => ?_, false, ?_, ?_⟩
    · simp only [List.forall_mem_singleton, readReg_finishReg_rd]
    · exact (finishReg_keeps u rd _).regs r (mt List.mem_singleton.2 hr)
    · rw [finishReg_ov, Bool.or_false]
    · rw [finishReg_ov, Bool.or_false]

/-- Settles O29: of the two fields that no instruction reads, only OV differs. -/
theorem ovIsNeverRead : Obligations.OvIsNeverRead := by
  intro i s t b h
  obtain ⟨f, hov, hset⟩ := exec_setPcOv h
  obtain ⟨hpc, -, -⟩ := exec_next_frame h
  exact ⟨f, hov, hpc ▸ hset s.pc b⟩

/-- Settles O30: of the two fields that no instruction reads, only pc differs. -/
theorem everyInstructionIsSequential : Obligations.EveryInstructionIsSequential := by
  intro i s t h
  obtain ⟨f, hov, hset⟩ := exec_setPcOv h
  obtain ⟨hpc, -, -⟩ := exec_next_frame h
  exact ⟨hpc ▸ BitVec.toNat_add s.pc 4, fun p => hov ▸ hset p s.ov⟩

/-- Settles O28: an instruction leaves OV or-ed with a bit, and an EXPD8n does not touch it. -/
theorem ovIsSticky : Obligations.OvIsSticky := by
  refine ⟨fun s t h hov => ?_, fun i s t htype h => ?_⟩
  · obtain ⟨-, i, -, -, hexec⟩ := step_next_cases h
    obtain ⟨f, ht, -⟩ := exec_setPcOv hexec
    rw [ht, hov, Bool.true_or]
  · obtain ⟨-, ⟨hsimd, -⟩ | ⟨-, rd, v, rfl⟩⟩ := exec_next_cases h
    · cases htype.symm.trans hsimd
    · exact finishReg_ov s rd v

/-- Settles O32: the operands before the ill-formed one pass the check, and the operand itself names the reason. -/
theorem firstIllFormedOperandGivesReason : Obligations.FirstIllFormedOperandGivesReason := by
  intro i s before after o hops hbefore hk
  exact ⟨fun h => exec_of_illFormed (illFormed_of_first hops hbefore (illFormed_of_pair_zero hk h)) s,
    fun h => exec_of_illFormed (illFormed_of_first hops hbefore (illFormed_of_pair_odd hk h)) s⟩

/-- Settles O24: x0 has no storage, and the others stand at an index of their own. -/
theorem registerFileReadsBackWrites : Obligations.RegisterFileReadsBackWrites := by
  intro s r v
  exact ⟨readReg_zero s, writeReg_of_zero s 0 v rfl,
    fun hr => readReg_writeReg_same s r v fun h0 => hr (Fin.ext h0), fun r' h => readReg_writeReg_other s r r' v h⟩

/-- Settles O25: on a legal number the odd register of the pair is the next one. -/
theorem pairIsEvenLowOddHigh : Obligations.PairIsEvenLowOddHigh := by
  intro s i j v hi hj
  obtain rfl := pairHigh_eq_of_val hi hj
  exact ⟨readPair_low s i, readPair_high s i, readReg_writePair_low s i v hi, readReg_writePair_high s i v hi,
    fun r h h' => readReg_writePair_other s i r v h h'⟩

end Sys2Proof.Machine
end

section
/-! Proofs: the SIMD instructions word by word, spec/10_state.md R13, and the intrinsics, spec/30_encoding.md R35. -/

namespace Sys2Proof.Machine

/-! ### Two 32-bit results side by side -/

/-- The result on a pair of which `lo` is the result on the low word and `hi` that on the high word. -/
def joinWords (lo hi : Sat 32) : Sat 64 where
  value := hi.value ++ lo.value
  sat := lo.sat || hi.sat

/-- The four byte results of one word put together. -/
def packWordBytes (r : Nat → Sat 8) : Sat 32 where
  value := (r 3).value ++ (r 2).value ++ (r 1).value ++ (r 0).value
  sat := (r 0).sat || (r 1).sat || (r 2).sat || (r 3).sat

/-- The two halfword results of one word put together. -/
def packWordHalves (r : Nat → Sat 16) : Sat 32 where
  value := (r 1).value ++ (r 0).value
  sat := (r 0).sat || (r 1).sat

section Join
variable (lo hi : Sat 32)

theorem joinWords_low : (joinWords lo hi).value.extractLsb' 0 32 = lo.value := by
  rw [joinWords, BitVec.extractLsb'_append_eq_of_add_le (by omega)]
  exact BitVec.extractLsb'_eq_self

theorem joinWords_high : (joinWords lo hi).value.extractLsb' 32 32 = hi.value := by
  rw [joinWords, BitVec.extractLsb'_append_eq_of_le (by omega)]
  exact BitVec.extractLsb'_eq_self

end Join

theorem append_bytes {w : Nat} (x : BitVec w) (b₃ b₂ b₁ b₀ : Byte) :
    x ++ b₃ ++ b₂ ++ b₁ ++ b₀ = x ++ (b₃ ++ b₂ ++ b₁ ++ b₀) := by
  have h1 : x ++ b₃ ++ b₂ = x ++ (b₃ ++ b₂) := BitVec.append_assoc
  have h2 : x ++ (b₃ ++ b₂) ++ b₁ = x ++ (b₃ ++ b₂ ++ b₁) := BitVec.append_assoc
  have h3 : x ++ (b₃ ++ b₂ ++ b₁) ++ b₀ = x ++ (b₃ ++ b₂ ++ b₁ ++ b₀) := BitVec.append_assoc
  rw [h1, h2, h3]

theorem packBytes_eq_joinWords (r : Nat → Sat 8) :
    packBytes r = joinWords (packWordBytes r) (packWordBytes fun k => r (k + 4)) :=
  congrArg₂ Sat.mk (append_bytes _ _ _ _ _) (by simp only [packWordBytes, Bool.or_assoc])

theorem packHalves_eq_joinWords (r : Nat → Sat 16) :
    packHalves r = joinWords (packWordHalves r) (packWordHalves fun k => r (k + 2)) :=
  congrArg₂ Sat.mk BitVec.append_assoc (by simp only [packWordHalves, Bool.or_assoc])

/-! ### The elements of a pair are those of its words -/

section Elements
variable (hi lo : Word) {k : Nat}

theorem byteOf_append_low (hk : k < 4) : byteOf (hi ++ lo) k = byteOf lo k :=
  BitVec.extractLsb'_append_eq_of_add_le (by omega)

theorem byteOf_append_high : byteOf (hi ++ lo) (k + 4) = byteOf hi k := by
  rw [byteOf, byteOf, BitVec.extractLsb'_append_eq_of_le (by omega)]
  congr 1

theorem halfOf_append_low (hk : k < 2) : halfOf (hi ++ lo) k = halfOf lo k :=
  BitVec.extractLsb'_append_eq_of_add_le (by omega)

theorem halfOf_append_high : halfOf (hi ++ lo) (k + 2) = halfOf hi k := by
  rw [halfOf, halfOf, BitVec.extractLsb'_append_eq_of_le (by omega)]
  congr 1

end Elements

/-! ### The SIMD loops word by word -/

/-- A two-source byte instruction on one word. -/
def zipWordBytes (f : Byte → Byte → Sat 8) (a b : Word) : Sat 32 :=
  packWordBytes fun k => f (byteOf a k) (byteOf b k)

/-- A two-source halfword instruction on one word. -/
def zipWordHalves (f : Half → Half → Sat 16) (a b : Word) : Sat 32 :=
  packWordHalves fun k => f (halfOf a k) (halfOf b k)

/-- A one-source byte instruction on one word. -/
def mapWordBytes (f : Byte → Sat 8) (a : Word) : Sat 32 := packWordBytes fun k => f (byteOf a k)

/-- A one-source halfword instruction on one word. -/
def mapWordHalves (f : Half → Sat 16) (a : Word) : Sat 32 := packWordHalves fun k => f (halfOf a k)

section Loops
variable (a a' b b' : Word)

theorem zipBytes_append (f : Byte → Byte → Sat 8) :
    zipBytes f (a' ++ a) (b' ++ b) = joinWords (zipWordBytes f a b) (zipWordBytes f a' b') := by
  simp only [zipBytes, packBytes_eq_joinWords, byteOf_append_high]
  simp [zipWordBytes, packWordBytes, byteOf_append_low]

theorem zipHalves_append (f : Half → Half → Sat 16) :
    zipHalves f (a' ++ a) (b' ++ b) = joinWords (zipWordHalves f a b) (zipWordHalves f a' b') := by
  simp only [zipHalves, packHalves_eq_joinWords, halfOf_append_high]
  simp [zipWordHalves, packWordHalves, halfOf_append_low]

/-- A one-source loop is a two-source one that does not look at its second source. -/
theorem mapBytes_append (f : Byte → Sat 8) :
    mapBytes f (a' ++ a) = joinWords (mapWordBytes f a) (mapWordBytes f a') :=
  zipBytes_append a a' a a' fun x _ => f x

theorem mapHalves_append (f : Half → Sat 16) :
    mapHalves f (a' ++ a) = joinWords (mapWordHalves f a) (mapWordHalves f a') :=
  zipHalves_append a a' a a' fun x _ => f x

end Loops

/-- A SIMD instruction whose result is made of two word results leaves them in the two registers of Rd, and raises OV
where either of them saturates. -/
theorem whenWellFormed_joinWords {i : Instr} {s t : State} {rd : RegNum} {res : Sat 64} {lo hi : Sat 32}
    (h : whenWellFormed i s (s.finishPair rd res) = .next t) (hrd : ⟨.rd, .pair, rd⟩ ∈ i.operands)
    (hres : res = joinWords lo hi) :
    t.readReg rd = lo.value ∧ t.readReg (pairHigh rd) = hi.value ∧ t.ov = (s.ov || lo.sat || hi.sat) := by
  obtain ⟨hi, rfl⟩ := whenWellFormed_eq_next.1 h
  have hlegal := legalPair_of_wellFormed hi hrd
  subst hres
  exact ⟨(readReg_finishPair_low hlegal _).trans (joinWords_low _ _),
    (readReg_finishPair_high hlegal _).trans (joinWords_high _ _),
    (finishPair_ov s rd _).trans (Bool.or_assoc _ _ _).symm⟩

/-! ### What is left in Rd is the result -/

section Computes
variable {i : Instr} {s : State} {rd : RegNum}

theorem whenWellFormed_readPair_rd (hi : i.WellFormed) (hrd : LegalPair rd) (res : Sat 64) :
    ∃ t, whenWellFormed i s (s.finishPair rd res) = .next t ∧ t.readPair rd = res.value :=
  ⟨_, whenWellFormed_of_wellFormed hi, readPair_finishPair s rd res hrd⟩

theorem whenWellFormed_readReg_rd (hi : i.WellFormed) (hrd : rd ≠ 0) (v : Word) :
    ∃ t, whenWellFormed i s (s.finishReg rd v) = .next t ∧ t.readReg rd = v :=
  ⟨_, whenWellFormed_of_wellFormed hi, readReg_finishReg_same hrd v⟩

end Computes

/-! ### The obligations -/

/-- Settles O26: the function on words is the instruction's own loop, over the elements of one word. -/
theorem pairInstructionsAreWordwise : Obligations.PairInstructionsAreWordwise := by
  unfold Obligations.PairInstructionsAreWordwise
  simp only [List.forall_mem_cons, List.not_mem_nil, false_implies, implies_true, and_true]
  exact ⟨
    ⟨⟨zipWordBytes (khm 8), fun _ _ _ _ _ h => whenWellFormed_joinWords h (.head _) (zipBytes_append ..)⟩,
      ⟨zipWordHalves (khm 16), fun _ _ _ _ _ h => whenWellFormed_joinWords h (.head _) (zipHalves_append ..)⟩,
      ⟨zipWordBytes (kadd 8), fun _ _ _ _ _ h => whenWellFormed_joinWords h (.head _) (zipBytes_append ..)⟩,
      ⟨zipWordHalves (kadd 16), fun _ _ _ _ _ h => whenWellFormed_joinWords h (.head _) (zipHalves_append ..)⟩,
      ⟨zipWordBytes (ksub 8), fun _ _ _ _ _ h => whenWellFormed_joinWords h (.head _) (zipBytes_append ..)⟩,
      ⟨zipWordHalves (ksub 16), fun _ _ _ _ _ h => whenWellFormed_joinWords h (.head _) (zipHalves_append ..)⟩⟩,
    ⟨⟨fun a b => mapWordBytes (fun e => kslra 8 e (controlField 4 b)) a,
        fun _ _ _ _ _ h => whenWellFormed_joinWords h (.head _) (mapBytes_append ..)⟩,
      ⟨fun a b => mapWordHalves (fun e => kslra 16 e (controlField 5 b)) a,
        fun _ _ _ _ _ h => whenWellFormed_joinWords h (.head _) (mapHalves_append ..)⟩⟩,
    ⟨⟨mapWordBytes (kabs 8), fun _ _ _ _ h => whenWellFormed_joinWords h (.head _) (mapBytes_append ..)⟩,
      ⟨mapWordHalves (kabs 16), fun _ _ _ _ h => whenWellFormed_joinWords h (.head _) (mapHalves_append ..)⟩⟩⟩

/-- Settles O23: an intrinsic is the value of its instruction's result, which the instruction leaves in Rd. -/
theorem instructionComputesItsIntrinsic : Obligations.InstructionComputesItsIntrinsic := by
  refine ⟨fun m hm rd rs1 rs2 s hrd h1 h2 => ?_, fun m hm rd rs1 rs2 s hrd h1 => ?_, fun m hm rd rs1 s hrd h1 => ?_,
    fun m hm rd rs1 s hrd => ?_⟩
  · have hpairs := forall_legalPair_triple.2 ⟨hrd, h1, h2⟩
    simp only [List.mem_cons, List.not_mem_nil, or_false] at hm
    rcases hm with rfl | rfl | rfl | rfl | rfl | rfl
    · exact whenWellFormed_readPair_rd ((Laws.Operands.dkhm8 rd rs1 rs2).2 hpairs) hrd _
    · exact whenWellFormed_readPair_rd ((Laws.Operands.dkhm16 rd rs1 rs2).2 hpairs) hrd _
    · exact whenWellFormed_readPair_rd ((Laws.Operands.dkadd8 rd rs1 rs2).2 hpairs) hrd _
    · exact whenWellFormed_readPair_rd ((Laws.Operands.dkadd16 rd rs1 rs2).2 hpairs) hrd _
    · exact whenWellFormed_readPair_rd ((Laws.Operands.dksub8 rd rs1 rs2).2 hpairs) hrd _
    · exact whenWellFormed_readPair_rd ((Laws.Operands.dksub16 rd rs1 rs2).2 hpairs) hrd _
  · have hpairs := forall_legalPair_double.2 ⟨hrd, h1⟩
    simp only [List.mem_cons, List.not_mem_nil, or_false] at hm
    rcases hm with rfl | rfl
    · exact whenWellFormed_readPair_rd ((Laws.Operands.dkslra8 rd rs1 rs2).2 hpairs) hrd _
    · exact whenWellFormed_readPair_rd ((Laws.Operands.dkslra16 rd rs1 rs2).2 hpairs) hrd _
  · have hpairs := forall_legalPair_double.2 ⟨hrd, h1⟩
    simp only [List.mem_cons, List.not_mem_nil, or_false] at hm
    rcases hm with rfl | rfl
    · exact whenWellFormed_readPair_rd ((Laws.Operands.dkabs8 rd rs1).2 hpairs) hrd _
    · exact whenWellFormed_readPair_rd ((Laws.Operands.dkabs16 rd rs1).2 hpairs) hrd _
  · simp only [List.mem_cons, List.not_mem_nil, or_false] at hm
    rcases hm with rfl | rfl | rfl | rfl
    · exact whenWellFormed_readReg_rd ((Laws.Operands.expd80 rd rs1).2 (List.forall_mem_nil _)) hrd _
    · exact whenWellFormed_readReg_rd ((Laws.Operands.expd81 rd rs1).2 (List.forall_mem_nil _)) hrd _
    · exact whenWellFormed_readReg_rd ((Laws.Operands.expd82 rd rs1).2 (List.forall_mem_nil _)) hrd _
    · exact whenWellFormed_readReg_rd ((Laws.Operands.expd83 rd rs1).2 (List.forall_mem_nil _)) hrd _

end Sys2Proof.Machine
end

section
/-! Proofs: further facts about the elements, spec/90_conflicts.md C7 and spec/95_test_vectors.md section 1. -/

namespace Sys2Proof.Machine

/-- Settles O2: only the product of two most negative elements, shifted, is outside the signed range, by one. -/
theorem khmIsClampedProduct : Obligations.KhmIsClampedProduct := by
  intro n hn a b
  have hn : 0 < n := by omega
  have hpos : (0 : Int) < 2 ^ (n - 1) := by positivity
  by_cases h : a = BitVec.ofInt n (-2 ^ (n - 1)) ∧ b = BitVec.ofInt n (-2 ^ (n - 1))
  · have hprod : a.toInt * b.toInt / 2 ^ (n - 1) = 2 ^ (n - 1) := by
      rw [(eq_least_iff hn a).1 h.1, (eq_least_iff hn b).1 h.2, neg_mul_neg, Int.mul_ediv_cancel _ hpos.ne']
    rw [khm_of_least h, hprod, saturate_of_gt (by omega)]
  · obtain ⟨hlow, hhigh⟩ := toInt_mul_ediv_range hn h
    rw [khm_of_other h, saturate_of_range hlow hhigh]

/-- Settles O5: both fields are right shifts by the same amount. -/
theorem mostNegativeShiftActsAsNext : Obligations.MostNegativeShiftActsAsNext := by
  have h8 : rightAmount 8 (0x8 : BitVec 4) = rightAmount 8 (0x9 : BitVec 4) := by decide
  have h16 : rightAmount 16 (0x10 : BitVec 5) = rightAmount 16 (0x11 : BitVec 5) := by decide
  refine ⟨fun a => ?_, fun a => ?_⟩
  · rw [kslra_of_toInt_neg a 0x8 rfl (by decide), kslra_of_toInt_neg a 0x9 rfl (by decide), h8]
  · rw [kslra_of_toInt_neg a 0x10 rfl (by decide), kslra_of_toInt_neg a 0x11 rfl (by decide), h16]

/-- Settles O6: Rs2 enters the lanes through its control field alone. -/
theorem shiftIgnoresUpperBits : Obligations.ShiftIgnoresUpperBits := by
  refine ⟨fun a b b' h => ?_, fun a b b' h => ?_⟩
  · have hc : controlField 4 b = controlField 4 b' := h
    rw [dkslra8_lanes, dkslra8_lanes, hc]
  · have hc : controlField 5 b = controlField 5 b' := h
    rw [dkslra16_lanes, dkslra16_lanes, hc]

end Sys2Proof.Machine
end
